-- ==== Sys2Proof/Word.lean ====
section
/-! DEFINITION. The widths of the machine's values (spec/00_scope.md R7, R9, R11). -/

namespace Sys2Proof

/-- A register, a timer, a memory byte, an immediate NN: 8 bits (R7, R71). -/
abbrev Byte := BitVec 8

/-- A program counter, a saved return address, an address NNN: 12 bits (R23, R71). -/
abbrev Addr := BitVec 12

/-- An instruction word, or the index register: 16 bits (R7, R30, R70). -/
abbrev Word := BitVec 16

/-- A register number X or Y, 0 to 15 (R20, R71). -/
abbrev Reg := Fin 16

/-- A key number, 0 to 15 (R35). -/
abbrev KeyIndex := Fin 16

/-- Register 0xF, the flag register VF (R21). -/
abbrev VF : Reg := 15

end Sys2Proof
end

