-- ==== Sys2Proof/Config.lean ====
section
/-! DEFINITION. The fixed sizes of the machine (R7), the types of the parameters the source leaves open (R8) and the one free
value, the external random stream (R40). The parameters' values stand in Sys2Proof/Machine/Params.lean. -/

namespace Sys2Proof.Config

/-- MEM_SIZE: bytes of memory (R7, R50). -/
abbrev memSize : Nat := 4096

/-- ENTRY: where a program is loaded and starts (R7, R59). -/
abbrev entry : Nat := 0x200

/-- MAX_PROGRAM: the longest blob `load` takes, MEM_SIZE - ENTRY = 3584 bytes (R7). -/
abbrev maxProgram : Nat := 3584

/-- STACK_DEPTH: entries of the call stack (R7, R26). -/
abbrev stackDepth : Nat := 16

/-- DISPLAY_W: columns of the display (R7, R34). -/
abbrev displayW : Nat := 64

/-- DISPLAY_H: rows of the display (R7, R34). -/
abbrev displayH : Nat := 32

/-- NUM_KEYS (R7, R35). -/
abbrev numKeys : Nat := 16

/-- GLYPHS: bytes of the glyph set, 16 glyphs of 5 bytes (R7, R36). -/
abbrev fontSize : Nat := 80

/-- BYTE_ORDER_FETCH (R8, R53). -/
inductive ByteOrder where
  /-- the byte at pc is w[15:8] -/
  | big
  /-- the byte at pc is w[7:0] -/
  | little
  deriving DecidableEq, Repr

/-- SHL_FLAG (R8, R134). -/
inductive ShlFlag where
  /-- VF is Y & 0x80 -/
  | raw
  /-- VF is Y >> 7 -/
  | normalized
  deriving DecidableEq, Repr

/-- FX1E_NO_OVERFLOW_VF (R8, R141). -/
inductive NoOverflowVF where
  /-- VF keeps its value -/
  | unchanged
  /-- VF becomes 0 -/
  | cleared
  deriving DecidableEq, Repr

/-- FAILED_STEP_PC (R8, R95). -/
inductive FailedStepPc where
  /-- pc is the failing word's address plus 2 -/
  | advanced
  /-- pc is the failing word's address -/
  | unchanged
  deriving DecidableEq, Repr

/-- CLASS0_MATCH (R8, R75). -/
inductive Class0Match where
  /-- bits 11:8 of a class-0 word are ignored -/
  | lowByte
  /-- only 0x00E0 and 0x00EE are CLS and RET -/
  | wholeWord
  deriving DecidableEq, Repr

/-- The external random stream (R11 `Rand()`, R40, R135): the byte taken by the n-th CXNN. FREE VALUE, no body: nothing can
be proved of what it is (log entry 3). -/
opaque randomByte : Nat → Byte

end Sys2Proof.Config
end

