-- ==== Sys2Proof/Machine/Fields.lean ====
section
/-! DEFINITION. The fields of an instruction word (spec/30_encoding.md R71), how a word lies in two bytes (R53) and what class 0
selects (R75). -/

namespace Sys2Proof.Machine

/-- The operation class, w[15:12] (R71). -/
def opClass (w : Word) : BitVec 4 := w.extractLsb' 12 4

/-- The field X, w[11:8], as its four bits (R71). -/
def bitsX (w : Word) : BitVec 4 := w.extractLsb' 8 4

/-- The field Y, w[7:4], as its four bits (R71). -/
def bitsY (w : Word) : BitVec 4 := w.extractLsb' 4 4

/-- The field N, w[3:0], as its four bits (R71). -/
def bitsN (w : Word) : BitVec 4 := w.extractLsb' 0 4

/-- The field NN, w[7:0] (R71). -/
def fieldNN (w : Word) : Byte := w.extractLsb' 0 8

/-- The field NNN, w[11:0] (R71). -/
def fieldNNN (w : Word) : Addr := w.extractLsb' 0 12

/-- The register number, or the row count, that four bits spell (R73). -/
def nibbleOf (b : BitVec 4) : Fin 16 := ⟨b.toNat, b.isLt⟩

/-- The four bits that spell a register number or a row count (R73). -/
def bitsOf (x : Fin 16) : BitVec 4 := BitVec.ofNat 4 x.val

/-- The register number X (R71). -/
def fieldX (w : Word) : Reg := nibbleOf (bitsX w)

/-- The register number Y (R71). -/
def fieldY (w : Word) : Reg := nibbleOf (bitsY w)

/-- The row count N (R71). -/
def fieldN (w : Word) : Fin 16 := nibbleOf (bitsN w)

/-- The word of the machine call 0NNN, class 0 and then its twelve bits (R100). -/
def sysWord (nnn : Addr) : Word := 0x0#4 ++ nnn

/-- The word two bytes make, the first at the lower address (R53). -/
def wordOfBytes (o : Config.ByteOrder) (b0 b1 : Byte) : Word :=
  match o with
  | .big => b0 ++ b1
  | .little => b1 ++ b0

/-- The byte of a word that lies at the lower address (R53). -/
def firstByte (o : Config.ByteOrder) (w : Word) : Byte :=
  match o with
  | .big => w.extractLsb' 8 8
  | .little => w.extractLsb' 0 8

/-- The byte of a word that lies at the higher address (R53). -/
def secondByte (o : Config.ByteOrder) (w : Word) : Byte :=
  match o with
  | .big => w.extractLsb' 0 8
  | .little => w.extractLsb' 8 8

/-- Does class 0 with these low twelve bits select 00E0 (R75)? -/
def class0IsCls (m : Config.Class0Match) (nnn : Addr) : Bool :=
  match m with
  | .lowByte => nnn.extractLsb' 0 8 == 0xE0#8
  | .wholeWord => nnn == 0x0E0#12

/-- Does class 0 with these low twelve bits select 00EE (R75)? -/
def class0IsRet (m : Config.Class0Match) (nnn : Addr) : Bool :=
  match m with
  | .lowByte => nnn.extractLsb' 0 8 == 0xEE#8
  | .wholeWord => nnn == 0x0EE#12

end Sys2Proof.Machine
end

