-- ==== Sys2Proof/Machine/Params.lean ====
section
/-! DEFINITION. The values this model takes for the parameters of spec/00_scope.md R8: the spec's own value each (its decision
in spec/92_eei_decisions.md). They stand here, and not in Config.lean, so that a later test that shows another value can mend
them (log entry 25). -/

namespace Sys2Proof.Machine.Params

/-- FONT_BASE: where the glyph set begins (R36; decision D4, log entry 7). -/
def fontBase : Nat := 0x000

/-- The glyphs of the hexadecimal digits 0 to 7, 5 rows each (R37; decision D5, log entry 8). -/
def glyphsLow : List (List Byte) :=
  [[0xF0, 0x90, 0x90, 0x90, 0xF0],
   [0x20, 0x60, 0x20, 0x20, 0x70],
   [0xF0, 0x10, 0xF0, 0x80, 0xF0],
   [0xF0, 0x10, 0xF0, 0x10, 0xF0],
   [0x90, 0x90, 0xF0, 0x10, 0x10],
   [0xF0, 0x80, 0xF0, 0x10, 0xF0],
   [0xF0, 0x80, 0xF0, 0x90, 0xF0],
   [0xF0, 0x10, 0x20, 0x40, 0x40]]

/-- The glyphs of the hexadecimal digits 8 to F (R37; decision D5, log entry 8). -/
def glyphsHigh : List (List Byte) :=
  [[0xF0, 0x90, 0xF0, 0x90, 0xF0],
   [0xF0, 0x90, 0xF0, 0x10, 0xF0],
   [0xF0, 0x90, 0xF0, 0x90, 0x90],
   [0xE0, 0x90, 0xE0, 0x90, 0xE0],
   [0xF0, 0x80, 0x80, 0x80, 0xF0],
   [0xE0, 0x90, 0x90, 0x90, 0xE0],
   [0xF0, 0x80, 0xF0, 0x80, 0xF0],
   [0xF0, 0x80, 0xF0, 0x80, 0x80]]

/-- FONT_DATA: the 80 bytes of the glyph set (R37; decision D5, log entry 8). -/
def fontData : List Byte := (glyphsLow ++ glyphsHigh).flatten

/-- BYTE_ORDER_FETCH (R53; decision D1, log entry 4). -/
def byteOrder : Config.ByteOrder := .big

/-- SHL_FLAG (R134; decision D9, log entry 12). -/
def shlFlag : Config.ShlFlag := .raw

/-- LDST_INCREMENTS_I (R144, R145; decision D10, log entry 13). -/
def ldstIncrementsI : Bool := false

/-- FX1E_NO_OVERFLOW_VF (R141; decision D11, log entry 14). -/
def noOverflowVF : Config.NoOverflowVF := .unchanged

/-- FAILED_STEP_PC (R95; decision D14, log entry 1). -/
def failedStepPc : Config.FailedStepPc := .advanced

/-- CLASS0_MATCH (R75; decision D22, log entry 22). -/
def class0Match : Config.Class0Match := .lowByte

/-- RESET_CLEARS_DISPLAY (R213; decision D19, log entry 20). -/
def resetClearsDisplay : Bool := false

/-- RESET_CLEARS_WAIT (R213; decision D19, log entry 20). -/
def resetClearsWait : Bool := true

end Sys2Proof.Machine.Params
end

