-- ==== Sys2Proof/Syntax.lean ====
section
/-! DEFINITION. The instructions: one constructor per row of spec/opcode_table.json (R74, R81), with the fields its format gives
it (R72). -/

namespace Sys2Proof

/-- An instruction. The comment of each constructor gives its pattern and the rule of its meaning. -/
inductive Instr where
  /-- 00E0, clear display (R151) -/
  | cls
  /-- 00EE, return from subroutine (R101) -/
  | ret
  /-- 0NNN, machine call, reported as a decode failure (R100) -/
  | sys (nnn : Addr)
  /-- 1NNN, jump (R102) -/
  | jp (nnn : Addr)
  /-- 2NNN, call (R103) -/
  | call (nnn : Addr)
  /-- 3XNN, skip if V[X] = NN (R111) -/
  | seImm (x : Reg) (nn : Byte)
  /-- 4XNN, skip if V[X] ≠ NN (R112) -/
  | sneImm (x : Reg) (nn : Byte)
  /-- 5XY0, skip if V[X] = V[Y] (R113) -/
  | seReg (x y : Reg)
  /-- 6XNN, set (R120) -/
  | ldImm (x : Reg) (nn : Byte)
  /-- 7XNN, add immediate (R121) -/
  | addImm (x : Reg) (nn : Byte)
  /-- 8XY0, assign (R122) -/
  | ldReg (x y : Reg)
  /-- 8XY1, OR (R123) -/
  | orReg (x y : Reg)
  /-- 8XY2, AND (R124) -/
  | andReg (x y : Reg)
  /-- 8XY3, XOR (R125) -/
  | xorReg (x y : Reg)
  /-- 8XY4, add with carry (R126) -/
  | addReg (x y : Reg)
  /-- 8XY5, subtract (R127) -/
  | subReg (x y : Reg)
  /-- 8XY6, shift right (R130) -/
  | shr (x y : Reg)
  /-- 8XY7, reverse subtract (R131) -/
  | subn (x y : Reg)
  /-- 8XYE, shift left (R134) -/
  | shl (x y : Reg)
  /-- 9XY0, skip if V[X] ≠ V[Y] (R114) -/
  | sneReg (x y : Reg)
  /-- ANNN, set index (R140) -/
  | ldI (nnn : Addr)
  /-- BNNN, jump to NNN plus V0 (R104) -/
  | jpV0 (nnn : Addr)
  /-- CXNN, random (R135) -/
  | rnd (x : Reg) (nn : Byte)
  /-- DXYN, draw (R152) -/
  | drw (x y : Reg) (n : Fin 16)
  /-- EX9E, skip if key pressed (R115) -/
  | skp (x : Reg)
  /-- EXA1, skip if key not pressed (R116) -/
  | sknp (x : Reg)
  /-- FX07, read delay timer (R160) -/
  | ldVxDT (x : Reg)
  /-- FX0A, wait for key (R164) -/
  | ldVxK (x : Reg)
  /-- FX15, set delay timer (R161) -/
  | ldDTVx (x : Reg)
  /-- FX18, set sound timer (R162) -/
  | ldSTVx (x : Reg)
  /-- FX1E, add to index (R141) -/
  | addI (x : Reg)
  /-- FX29, glyph address (R142) -/
  | ldF (x : Reg)
  /-- FX33, binary-coded decimal (R143) -/
  | ldB (x : Reg)
  /-- FX55, store V0 to VX (R144) -/
  | ldMemVx (x : Reg)
  /-- FX65, load V0 to VX (R145) -/
  | ldVxMem (x : Reg)
  deriving DecidableEq, Repr

end Sys2Proof
end

