-- ==== Sys2Proof/WellFormed.lean ====
section
/-! DEFINITION. Which instructions have an encoding. Every field's range is its type; the one check left is that 0NNN has lower
priority than 00E0 and 00EE (spec/opcode_table.json, the note of the SYS row; R75). -/

namespace Sys2Proof

/-- An instruction that some word encodes: a machine call 0NNN is one only if its low twelve bits select neither 00E0 nor 00EE
(R75, R100); every other instruction always is. -/
def Instr.wellFormed : Instr → Bool
  | .sys nnn =>
      !Machine.class0IsCls Machine.Params.class0Match nnn && !Machine.class0IsRet Machine.Params.class0Match nnn
  | .cls | .ret | .jp _ | .call _ | .ldI _ | .jpV0 _ => true
  | .seImm _ _ | .sneImm _ _ | .ldImm _ _ | .addImm _ _ | .rnd _ _ => true
  | .seReg _ _ | .sneReg _ _ | .ldReg _ _ | .orReg _ _ | .andReg _ _ | .xorReg _ _ => true
  | .addReg _ _ | .subReg _ _ | .shr _ _ | .subn _ _ | .shl _ _ | .drw _ _ _ => true
  | .skp _ | .sknp _ | .ldVxDT _ | .ldVxK _ | .ldDTVx _ | .ldSTVx _ => true
  | .addI _ | .ldF _ | .ldB _ | .ldMemVx _ | .ldVxMem _ => true

end Sys2Proof
end

