-- ==== Sys2Proof/Decode.lean ====
section
/-! DEFINITION. Decoding (spec/30_encoding.md R70 to R80), total on every word, and the encoder written from the same table; then
the opcode table itself as masks and patterns (spec/opcode_table.json). -/

namespace Sys2Proof

open Machine

/-- Why a word selects no instruction (R80); each constructor carries the word (R97), or says that two bytes are not there. -/
inductive DecodeReject where
  /-- class 0x5 with a low nibble that is not 0 (R76) -/
  | class5SubCode (w : Word)
  /-- class 0x8 with sub-code 8, 9, A, B, C, D or F (R77) -/
  | class8SubCode (w : Word)
  /-- class 0x9 with a low nibble that is not 0 (R76) -/
  | class9SubCode (w : Word)
  /-- class 0xE with a low byte other than 9E and A1 (R78) -/
  | classESubCode (w : Word)
  /-- class 0xF with a low byte that R79 does not list -/
  | classFSubCode (w : Word)
  /-- fewer than two bytes were given (R70); no fetch of the machine does this -/
  | truncated
  deriving DecidableEq, Repr

/-- Class 0x0: CLS, RET, or the machine call (R75, R100). -/
def decodeClass0 (w : Word) : Instr :=
  if class0IsCls Params.class0Match (fieldNNN w) then .cls
  else if class0IsRet Params.class0Match (fieldNNN w) then .ret
  else .sys (fieldNNN w)

/-- Class 0x8: the sub-code is the low nibble (R77). -/
def decodeClass8 (w : Word) : Except DecodeReject Instr :=
  match (bitsN w).toNat with
  | 0x0 => .ok (.ldReg (fieldX w) (fieldY w))
  | 0x1 => .ok (.orReg (fieldX w) (fieldY w))
  | 0x2 => .ok (.andReg (fieldX w) (fieldY w))
  | 0x3 => .ok (.xorReg (fieldX w) (fieldY w))
  | 0x4 => .ok (.addReg (fieldX w) (fieldY w))
  | 0x5 => .ok (.subReg (fieldX w) (fieldY w))
  | 0x6 => .ok (.shr (fieldX w) (fieldY w))
  | 0x7 => .ok (.subn (fieldX w) (fieldY w))
  | 0xE => .ok (.shl (fieldX w) (fieldY w))
  | _ => .error (.class8SubCode w)

/-- Class 0xE: the sub-code is the low byte (R78). -/
def decodeClassE (w : Word) : Except DecodeReject Instr :=
  match (fieldNN w).toNat with
  | 0x9E => .ok (.skp (fieldX w))
  | 0xA1 => .ok (.sknp (fieldX w))
  | _ => .error (.classESubCode w)

/-- Class 0xF: the sub-code is the low byte (R79). -/
def decodeClassF (w : Word) : Except DecodeReject Instr :=
  match (fieldNN w).toNat with
  | 0x07 => .ok (.ldVxDT (fieldX w))
  | 0x0A => .ok (.ldVxK (fieldX w))
  | 0x15 => .ok (.ldDTVx (fieldX w))
  | 0x18 => .ok (.ldSTVx (fieldX w))
  | 0x1E => .ok (.addI (fieldX w))
  | 0x29 => .ok (.ldF (fieldX w))
  | 0x33 => .ok (.ldB (fieldX w))
  | 0x55 => .ok (.ldMemVx (fieldX w))
  | 0x65 => .ok (.ldVxMem (fieldX w))
  | _ => .error (.classFSubCode w)

/-- The instruction a word selects, by class and then sub-code (R74), or why there is none (R80). -/
def decode (w : Word) : Except DecodeReject Instr :=
  match (opClass w).toNat with
  | 0x0 => .ok (decodeClass0 w)
  | 0x1 => .ok (.jp (fieldNNN w))
  | 0x2 => .ok (.call (fieldNNN w))
  | 0x3 => .ok (.seImm (fieldX w) (fieldNN w))
  | 0x4 => .ok (.sneImm (fieldX w) (fieldNN w))
  | 0x5 => if bitsN w = 0 then .ok (.seReg (fieldX w) (fieldY w)) else .error (.class5SubCode w)
  | 0x6 => .ok (.ldImm (fieldX w) (fieldNN w))
  | 0x7 => .ok (.addImm (fieldX w) (fieldNN w))
  | 0x8 => decodeClass8 w
  | 0x9 => if bitsN w = 0 then .ok (.sneReg (fieldX w) (fieldY w)) else .error (.class9SubCode w)
  | 0xA => .ok (.ldI (fieldNNN w))
  | 0xB => .ok (.jpV0 (fieldNNN w))
  | 0xC => .ok (.rnd (fieldX w) (fieldNN w))
  | 0xD => .ok (.drw (fieldX w) (fieldY w) (fieldN w))
  | 0xE => decodeClassE w
  | _ => decodeClassF w

/-- Decoding from bytes in memory order: exactly two are consumed (R70), and the rest is handed back. -/
def decodeBytes : List Byte → Except DecodeReject (Instr × List Byte)
  | b0 :: b1 :: rest =>
      match decode (wordOfBytes Params.byteOrder b0 b1) with
      | .ok i => .ok (i, rest)
      | .error e => .error e
  | [_] => .error .truncated
  | [] => .error .truncated

/-! ### The encoder -/

/-- Format A, `cccc NNNN NNNN NNNN` (R72); format Z of the machine call has the same layout. -/
def formatA (c : BitVec 4) (nnn : Addr) : Word := c ++ nnn

/-- Formats R and K, `cccc XXXX NNNN NNNN`: an immediate or a sub-code in the low byte (R72). -/
def formatR (c : BitVec 4) (x : Reg) (nn : Byte) : Word := c ++ bitsOf x ++ nn

/-- Formats P and D, `cccc XXXX YYYY ssss`: a sub-code or a row count in the low nibble (R72). -/
def formatP (c : BitVec 4) (x y : Reg) (n : BitVec 4) : Word := c ++ bitsOf x ++ bitsOf y ++ n

/-- The word of an instruction (R72, R74). -/
def encode : Instr → Word
  | .cls => 0x00E0
  | .ret => 0x00EE
  | .sys nnn => formatA 0x0 nnn
  | .jp nnn => formatA 0x1 nnn
  | .call nnn => formatA 0x2 nnn
  | .seImm x nn => formatR 0x3 x nn
  | .sneImm x nn => formatR 0x4 x nn
  | .seReg x y => formatP 0x5 x y 0x0
  | .ldImm x nn => formatR 0x6 x nn
  | .addImm x nn => formatR 0x7 x nn
  | .ldReg x y => formatP 0x8 x y 0x0
  | .orReg x y => formatP 0x8 x y 0x1
  | .andReg x y => formatP 0x8 x y 0x2
  | .xorReg x y => formatP 0x8 x y 0x3
  | .addReg x y => formatP 0x8 x y 0x4
  | .subReg x y => formatP 0x8 x y 0x5
  | .shr x y => formatP 0x8 x y 0x6
  | .subn x y => formatP 0x8 x y 0x7
  | .shl x y => formatP 0x8 x y 0xE
  | .sneReg x y => formatP 0x9 x y 0x0
  | .ldI nnn => formatA 0xA nnn
  | .jpV0 nnn => formatA 0xB nnn
  | .rnd x nn => formatR 0xC x nn
  | .drw x y n => formatP 0xD x y (bitsOf n)
  | .skp x => formatR 0xE x 0x9E
  | .sknp x => formatR 0xE x 0xA1
  | .ldVxDT x => formatR 0xF x 0x07
  | .ldVxK x => formatR 0xF x 0x0A
  | .ldDTVx x => formatR 0xF x 0x15
  | .ldSTVx x => formatR 0xF x 0x18
  | .addI x => formatR 0xF x 0x1E
  | .ldF x => formatR 0xF x 0x29
  | .ldB x => formatR 0xF x 0x33
  | .ldMemVx x => formatR 0xF x 0x55
  | .ldVxMem x => formatR 0xF x 0x65

/-- The bytes of an instruction in memory order (R53, R70). -/
def encodeBytes (i : Instr) : List Byte :=
  [firstByte Params.byteOrder (encode i), secondByte Params.byteOrder (encode i)]

/-! ### The opcode table -/

/-- A row of spec/opcode_table.json: its mnemonic, its mask and its match value. -/
structure OpcodeRow where
  /-- the row's mnemonic, as the table spells it -/
  mnemonic : String
  /-- the bits that select the row -/
  mask : Word
  /-- what those bits are -/
  pattern : Word
  deriving DecidableEq, Repr

/-- The mask of the class-0 rows CLS and RET under CLASS0_MATCH (the table's notes; R75). -/
def class0Mask : Config.Class0Match → Word
  | .lowByte => 0xF0FF
  | .wholeWord => 0xFFFF

/-- The rows of classes 0 to 7; SYS stands after CLS and RET, whose priority is higher (the table's note). -/
def opcodeRowsLow : List OpcodeRow :=
  [⟨"CLS", class0Mask Params.class0Match, 0x00E0⟩, ⟨"RET", class0Mask Params.class0Match, 0x00EE⟩,
   ⟨"SYS_nnn", 0xF000, 0x0000⟩, ⟨"JP_nnn", 0xF000, 0x1000⟩, ⟨"CALL_nnn", 0xF000, 0x2000⟩,
   ⟨"SE_Vx__nn", 0xF000, 0x3000⟩, ⟨"SNE_Vx__nn", 0xF000, 0x4000⟩, ⟨"SE_Vx__Vy", 0xF00F, 0x5000⟩,
   ⟨"LD_Vx__nn", 0xF000, 0x6000⟩, ⟨"ADD_Vx__nn", 0xF000, 0x7000⟩]

/-- The rows of class 8. -/
def opcodeRowsAlu : List OpcodeRow :=
  [⟨"LD_Vx__Vy", 0xF00F, 0x8000⟩, ⟨"OR_Vx__Vy", 0xF00F, 0x8001⟩, ⟨"AND_Vx__Vy", 0xF00F, 0x8002⟩,
   ⟨"XOR_Vx__Vy", 0xF00F, 0x8003⟩, ⟨"ADD_Vx__Vy", 0xF00F, 0x8004⟩, ⟨"SUB_Vx__Vy", 0xF00F, 0x8005⟩,
   ⟨"SHR_Vx__Vy", 0xF00F, 0x8006⟩, ⟨"SUBN_Vx__Vy", 0xF00F, 0x8007⟩, ⟨"SHL_Vx__Vy", 0xF00F, 0x800E⟩]

/-- The rows of classes 9 to E. -/
def opcodeRowsMid : List OpcodeRow :=
  [⟨"SNE_Vx__Vy", 0xF00F, 0x9000⟩, ⟨"LD_I__nnn", 0xF000, 0xA000⟩, ⟨"JP_V0__nnn", 0xF000, 0xB000⟩,
   ⟨"RND_Vx__nn", 0xF000, 0xC000⟩, ⟨"DRW_Vx__Vy__n", 0xF000, 0xD000⟩, ⟨"SKP_Vx", 0xF0FF, 0xE09E⟩,
   ⟨"SKNP_Vx", 0xF0FF, 0xE0A1⟩]

/-- The rows of class F. -/
def opcodeRowsHigh : List OpcodeRow :=
  [⟨"LD_Vx__DT", 0xF0FF, 0xF007⟩, ⟨"LD_Vx__K", 0xF0FF, 0xF00A⟩, ⟨"LD_DT__Vx", 0xF0FF, 0xF015⟩,
   ⟨"LD_ST__Vx", 0xF0FF, 0xF018⟩, ⟨"ADD_I__Vx", 0xF0FF, 0xF01E⟩, ⟨"LD_F__Vx", 0xF0FF, 0xF029⟩,
   ⟨"LD_B__Vx", 0xF0FF, 0xF033⟩, ⟨"LD__I___Vx", 0xF0FF, 0xF055⟩, ⟨"LD_Vx___I", 0xF0FF, 0xF065⟩]

/-- spec/opcode_table.json, its 35 rows in its order; where two match, the first one is meant. -/
def opcodeTable : List OpcodeRow := opcodeRowsLow ++ opcodeRowsAlu ++ opcodeRowsMid ++ opcodeRowsHigh

/-- The first row of the table whose masked bits a word has. -/
def matchingRow (w : Word) : Option OpcodeRow := opcodeTable.find? fun r => w &&& r.mask == r.pattern

/-- The mnemonic of an instruction's row, as the table spells it. -/
def Instr.mnemonic : Instr → String
  | .cls => "CLS"
  | .ret => "RET"
  | .sys _ => "SYS_nnn"
  | .jp _ => "JP_nnn"
  | .call _ => "CALL_nnn"
  | .seImm _ _ => "SE_Vx__nn"
  | .sneImm _ _ => "SNE_Vx__nn"
  | .seReg _ _ => "SE_Vx__Vy"
  | .ldImm _ _ => "LD_Vx__nn"
  | .addImm _ _ => "ADD_Vx__nn"
  | .ldReg _ _ => "LD_Vx__Vy"
  | .orReg _ _ => "OR_Vx__Vy"
  | .andReg _ _ => "AND_Vx__Vy"
  | .xorReg _ _ => "XOR_Vx__Vy"
  | .addReg _ _ => "ADD_Vx__Vy"
  | .subReg _ _ => "SUB_Vx__Vy"
  | .shr _ _ => "SHR_Vx__Vy"
  | .subn _ _ => "SUBN_Vx__Vy"
  | .shl _ _ => "SHL_Vx__Vy"
  | .sneReg _ _ => "SNE_Vx__Vy"
  | .ldI _ => "LD_I__nnn"
  | .jpV0 _ => "JP_V0__nnn"
  | .rnd _ _ => "RND_Vx__nn"
  | .drw _ _ _ => "DRW_Vx__Vy__n"
  | .skp _ => "SKP_Vx"
  | .sknp _ => "SKNP_Vx"
  | .ldVxDT _ => "LD_Vx__DT"
  | .ldVxK _ => "LD_Vx__K"
  | .ldDTVx _ => "LD_DT__Vx"
  | .ldSTVx _ => "LD_ST__Vx"
  | .addI _ => "ADD_I__Vx"
  | .ldF _ => "LD_F__Vx"
  | .ldB _ => "LD_B__Vx"
  | .ldMemVx _ => "LD__I___Vx"
  | .ldVxMem _ => "LD_Vx___I"

/-- What the decoder reads from an instruction of the opcode table: `w` numbers its bits as the table does, the word is laid out
in memory order (R53) and given to the decoder of bytes. -/
def decodeTableWord (nbits w : Nat) : Option Instr :=
  let word := BitVec.ofNat 16 (w % 2 ^ nbits)
  match decodeBytes [firstByte Params.byteOrder word, secondByte Params.byteOrder word] with
  | .ok (i, _) => some i
  | .error _ => none

end Sys2Proof
end

