-- ==== Sys2Proof/Machine/Flags.lean ====
section
/-! DEFINITION. What VF becomes (spec/10_state.md R42), and the 8-bit results that go with it (spec/43_alu.md R128). -/

namespace Sys2Proof.Machine

/-- A condition as a flag byte, 1 or 0. -/
def flagByte (c : Bool) : Byte := if c then 1 else 0

/-- 8XY4: 1 iff the unsigned sum exceeds 255 (R126; 90_conflicts.md C1, log entry 29). -/
def carryFlag (a b : Byte) : Byte := flagByte (decide (255 < a.toNat + b.toNat))

/-- 8XY5 with (V[X], V[Y]) and 8XY7 with (V[Y], V[X]): 1 iff there is no borrow (R127, R131). -/
def noBorrowFlag (a b : Byte) : Byte := flagByte (decide (b.toNat ≤ a.toNat))

/-- 8XY6: the bit shifted out, `V[Y] & 0x01` (R130). -/
def shrFlag (b : Byte) : Byte := b &&& 0x01

/-- 8XYE: `V[Y] & 0x80`, or `V[Y] >> 7` under SHL_FLAG = normalized (R134). -/
def shlFlag (p : Config.ShlFlag) (b : Byte) : Byte :=
  match p with
  | .raw => b &&& 0x80
  | .normalized => b >>> 7

/-- FX1E: does `I + V[X]` overflow 16 bits (R141)? -/
def indexOverflows (i : Word) (b : Byte) : Bool := decide (0xFFFF < i.toNat + b.toNat)

/-- FX1E: VF after it, from the overflow and from VF before it (R141, parameter FX1E_NO_OVERFLOW_VF). -/
def indexFlag (p : Config.NoOverflowVF) (overflow : Bool) (vf : Byte) : Byte :=
  if overflow then 1
  else match p with
    | .unchanged => vf
    | .cleared => 0

end Sys2Proof.Machine
end

