-- ==== Sys2Proof/Machine/State.lean ====
section
/-! DEFINITION. The state of the machine as plain data (spec/10_state.md), its value right after construction (R44, R210), and
the reasons a transaction can stop. -/

namespace Sys2Proof.Machine

/-- The keypress-wait state (R38). -/
inductive WaitState where
  /-- no wait is under way -/
  | idle
  /-- FX0A waits for a press that will be written to register `t` -/
  | armed (t : Reg)
  /-- key `k` was pressed and FX0A has not acknowledged it -/
  | captured (k : KeyIndex)
  deriving DecidableEq, Repr

/-- The display, row by row: entry `y`, then entry `x`, is Pix[x][y] (R34, R150). -/
abbrev Display := Vector (Vector Bool 64) 32

/-- Memory: the cells whose byte differs from what memory holds after construction, addresses strictly rising (R50, R44). -/
abbrev Memory := List Host.Cell

/-- What a transaction returns to the host (R90, R180, R195). -/
inductive Reply where
  /-- `Continue`: a step other than a draw succeeded (R94) -/
  | continue
  /-- `Redraw`: a draw succeeded (R94) -/
  | redraw
  /-- `DecodeError(w)`: the word fetched selects no executing opcode (R181) -/
  | decodeError (w : Word)
  /-- `StackOverflow`: 2NNN with 16 entries held (R182) -/
  | stackOverflow
  /-- `StackUnderflow`: 00EE with no entry held (R183) -/
  | stackUnderflow
  /-- `Ok` of `load` (R211) -/
  | loadOk
  /-- `LoadError` of `load` (R184, R212) -/
  | loadError
  /-- the pixel grid (R197) -/
  | pixels (d : Display)
  /-- the sound timer (R197) -/
  | soundTimer (b : Byte)
  deriving DecidableEq, Repr

/-- The state of the machine (R41 and the rules at each field). -/
structure State where
  /-- V0 to VF (R20, R21) -/
  v : Vector Byte 16
  /-- the index register I (R30) -/
  i : Word
  /-- the program counter (R23) -/
  pc : Addr
  /-- the entries S[0] to S[15] of the call stack (R26) -/
  stack : Vector Addr 16
  /-- SP, the number of entries held (R26) -/
  sp : Fin 17
  /-- the delay timer DT (R32) -/
  dt : Byte
  /-- the sound timer ST (R33) -/
  st : Byte
  /-- the framebuffer Pix (R34) -/
  display : Display
  /-- the key states, true for pressed (R35) -/
  keys : Vector Bool 16
  /-- the keypress-wait state (R38) -/
  wait : WaitState
  /-- memory (R50) -/
  mem : Memory
  /-- the model's own field: bytes of the external random stream taken so far (R40; log entry 3) -/
  randomIndex : Nat
  /-- the model's own field: what the latest transaction returned, if it returned something (R90, R195; log entry 2) -/
  reply : Option Reply
  deriving DecidableEq, Repr

/-- The machine right after construction (R44, R210); a `reset()` made at once leaves the same (R215). Memory lists nothing: every
address reads as its content after construction. -/
def State.reset : State where
  v := Vector.replicate 16 0
  i := 0
  pc := 0x200
  stack := Vector.replicate 16 0
  sp := 0
  dt := 0
  st := 0
  display := Vector.replicate 32 (Vector.replicate 64 false)
  keys := Vector.replicate 16 false
  wait := .idle
  mem := []
  randomIndex := 0
  reply := none

/-- What stops the machine: nothing. The core never stops by itself (R15), a failed step returns its failure and the machine goes
on (R180, R188), and no access faults (R51). No one raises a fault; having none is safe only in so far as those rules hold (log
entries 1 and 24). -/
inductive Fault where
  deriving DecidableEq, Repr

/-- Why there is no transition. -/
inductive Refusal where
  /-- raised by `exec` alone, for an instruction that has no meaning yet; safe -/
  | notModelled (mnemonic : String)
  /-- raised by the host transaction `set_key` with an index above 15, which the spec puts outside the interface (R198); safe -/
  | keyIndexOutOfRange (k : Nat)
  deriving DecidableEq, Repr

end Sys2Proof.Machine
end

