-- ==== Sys2Proof/Machine/Memory.lean ====
section
/-! DEFINITION. Memory as a list of cells in one canonical form: what an unlisted address reads as, reading, writing, the form. -/

namespace Sys2Proof.Machine

/-- What address `a` holds after construction, and so what it reads as while it is not listed: the glyph set, and 0 elsewhere
(R36, R44). -/
def initialByte (a : Nat) : Byte :=
  if Params.fontBase ≤ a ∧ a < Params.fontBase + Config.fontSize then Params.fontData.getD (a - Params.fontBase) 0 else 0

/-- The byte at address `a` (R52, on addresses below 4096). -/
def Memory.read : Memory → Nat → Byte
  | [], a => initialByte a
  | (k, b) :: rest, a => if k = a then b else Memory.read rest a

/-- The cell of address `a` put before `rest`, unless it holds what `a` reads as unlisted. -/
def Memory.cons (a : Nat) (b : Byte) (rest : Memory) : Memory :=
  if b = initialByte a then rest else (a, b) :: rest

/-- Memory with byte `b` at address `a` (R52, R57). -/
def Memory.write : Memory → Nat → Byte → Memory
  | [], a, b => Memory.cons a b []
  | (k, c) :: rest, a, b =>
      if a < k then Memory.cons a b ((k, c) :: rest)
      else if a = k then Memory.cons a b rest
      else (k, c) :: Memory.write rest a b

/-- The canonical form: addresses strictly rise and lie in memory, and no cell holds what its address reads as unlisted. -/
abbrev Memory.wf (m : Memory) : Prop :=
  m.Pairwise (fun c d => c.1 < d.1) ∧ ∀ c ∈ m, c.1 < Config.memSize ∧ c.2 ≠ initialByte c.1

end Sys2Proof.Machine
end

