-- ==== Sys2Proof/Machine/Ops.lean ====
section
/-! DEFINITION. The named operations on the state: registers, program counter, memory, call stack, keypad, and how a step
succeeds or fails. -/

namespace Sys2Proof.Machine

/-- What a step or a meaning answers. -/
abbrev Answer := Host.Outcome State Fault Refusal

/-! ### Registers and program counter -/

/-- `V[x]` (R11). -/
def State.reg (s : State) (x : Reg) : Byte := s.v[x]

/-- `V[x] <- b` (R11). -/
def State.setReg (s : State) (x : Reg) (b : Byte) : State := { s with v := s.v.set x b }

/-- `I <- a` (R11, R30). -/
def State.setI (s : State) (a : Word) : State := { s with i := a }

/-- `pc <- a` (R11, R23). -/
def State.setPc (s : State) (a : Addr) : State := { s with pc := a }

/-- `pc <- (pc + 2) mod 4096`: the advance of every step (R92), and once more for a taken skip (R110). -/
def State.advancePc (s : State) : State := s.setPc (s.pc + 2)

/-- `pc <- (pc - 2) mod 4096`: FX0A back at its own address (R164). -/
def State.rewindPc (s : State) : State := s.setPc (s.pc - 2)

/-- A skip that is taken when `c` holds (R110). -/
def State.skipIf (c : Bool) (s : State) : State := if c then s.advancePc else s

/-! ### Memory -/

/-- `MemRead(a, 1)`: the address is taken modulo 4096 (R51, R52). -/
def State.memRead (s : State) (a : Nat) : Byte := s.mem.read (a % Config.memSize)

/-- `MemWrite(a, 1, b)`: the address is taken modulo 4096 (R51, R52). -/
def State.memWrite (s : State) (a : Nat) (b : Byte) : State := { s with mem := s.mem.write (a % Config.memSize) b }

/-- The `n` bytes at `a`, `a + 1`, and so on, each address modulo 4096 (R146). -/
def State.readBytes (s : State) (a n : Nat) : List Byte := (List.range n).map fun k => s.memRead (a + k)

/-- The bytes of a list written at `a`, `a + 1`, and so on in that order, each address modulo 4096 (R146). -/
def State.writeBytes (s : State) (a : Nat) : List Byte → State
  | [] => s
  | b :: rest => (s.memWrite a b).writeBytes (a + 1) rest

/-! ### Call stack -/

/-- `Push(a)` (R27): none if 16 entries are held. -/
def State.push (s : State) (a : Addr) : Option State :=
  if h : s.sp.val < 16 then
    some { s with stack := s.stack.set s.sp.val a h, sp := ⟨s.sp.val + 1, by omega⟩ }
  else none

/-- `Pop()` (R28): the entry pushed last and the state without it, none if no entry is held. The entry left behind keeps its
value. -/
def State.pop (s : State) : Option (Addr × State) :=
  if h : 0 < s.sp.val then
    some (s.stack[s.sp.val - 1]'(by omega), { s with sp := ⟨s.sp.val - 1, by omega⟩ })
  else none

/-! ### Keypad -/

/-- `Key[k]` (R11, R35). -/
def State.key (s : State) (k : KeyIndex) : Bool := s.keys[k]

/-- `Key[k] <- p` (R196). -/
def State.setKey (s : State) (k : KeyIndex) (p : Bool) : State := { s with keys := s.keys.set k p }

/-! ### How a step ends -/

/-- The state in which a transaction has returned `r` to the host. -/
def State.returning (s : State) (r : Reply) : State := { s with reply := some r }

/-- The step succeeds with `return Continue` (R94). -/
def done (s : State) : Answer := .next (s.returning .continue)

/-- The state of a failed step: everything as before the step, except pc, which the step had already advanced (R95, parameter
FAILED_STEP_PC), and the failure returned. This is all that a failure does; there is no trap and no return from one (R187,
R188). -/
def State.failing (p : Config.FailedStepPc) (s : State) (r : Reply) : State :=
  match p with
  | .advanced => s.returning r
  | .unchanged => s.rewindPc.returning r

/-- The step ends in the failure `r` (R11 `raise`, R95, R187). -/
def raiseFailure (s : State) (r : Reply) : Answer := .next (s.failing Params.failedStepPc r)

end Sys2Proof.Machine
end

