-- ==== Sys2Proof/Machine/Alu.lean ====
section
/-! DEFINITION. Register arithmetic and logic: 6XNN, 7XNN, 8XY0 to 8XY7, 8XYE, CXNN (spec/43_alu.md). -/

namespace Sys2Proof.Machine

/-- The result to V[X] and then the flag to VF: with X = F the flag is what stays (R129; decision D8, log entry 11). -/
def State.setResultAndFlag (s : State) (x : Reg) (result flag : Byte) : State := (s.setReg x result).setReg VF flag

/-- 6XNN (R120). -/
def execLdImm (x : Reg) (nn : Byte) (s : State) : Answer := done (s.setReg x nn)

/-- 7XNN, no flag (R121). -/
def execAddImm (x : Reg) (nn : Byte) (s : State) : Answer := done (s.setReg x (s.reg x + nn))

/-- 8XY0 (R122). -/
def execLdReg (x y : Reg) (s : State) : Answer := done (s.setReg x (s.reg y))

/-- 8XY1 (R123). -/
def execOrReg (x y : Reg) (s : State) : Answer := done (s.setReg x (s.reg x ||| s.reg y))

/-- 8XY2 (R124). -/
def execAndReg (x y : Reg) (s : State) : Answer := done (s.setReg x (s.reg x &&& s.reg y))

/-- 8XY3 (R125). -/
def execXorReg (x y : Reg) (s : State) : Answer := done (s.setReg x (s.reg x ^^^ s.reg y))

/-- 8XY4 (R126). -/
def execAddReg (x y : Reg) (s : State) : Answer :=
  done (s.setResultAndFlag x (s.reg x + s.reg y) (carryFlag (s.reg x) (s.reg y)))

/-- 8XY5 (R127). -/
def execSubReg (x y : Reg) (s : State) : Answer :=
  done (s.setResultAndFlag x (s.reg x - s.reg y) (noBorrowFlag (s.reg x) (s.reg y)))

/-- 8XY6: the source is V[Y] (R130). -/
def execShr (x y : Reg) (s : State) : Answer := done (s.setResultAndFlag x (s.reg y >>> 1) (shrFlag (s.reg y)))

/-- 8XY7 (R131). -/
def execSubn (x y : Reg) (s : State) : Answer :=
  done (s.setResultAndFlag x (s.reg y - s.reg x) (noBorrowFlag (s.reg y) (s.reg x)))

/-- 8XYE: the source is V[Y], the flag is the raw masked bit (R134). -/
def execShl (x y : Reg) (s : State) : Answer :=
  done (s.setResultAndFlag x (s.reg y <<< 1) (shlFlag Params.shlFlag (s.reg y)))

/-- `Rand()`: the next byte of the external stream is taken (R11, R40). -/
def State.takeRandom (s : State) : State := { s with randomIndex := s.randomIndex + 1 }

/-- CXNN: `V[X] <- Rand() & NN` (R135). -/
def execRnd (x : Reg) (nn : Byte) (s : State) : Answer :=
  done (s.takeRandom.setReg x (Config.randomByte s.randomIndex &&& nn))

end Sys2Proof.Machine
end

