-- ==== Sys2Proof/Machine/Operands.lean ====
section
/-! DEFINITION. What the operands of the instructions stand for: key numbers, digits, glyph addresses, jump targets, decimal
digits, register blocks and the pixels of a sprite. -/

namespace Sys2Proof.Machine

/-- The low nibble of a byte: the key that EX9E and EXA1 test (R117) and the digit of FX29 (R142). -/
def lowNibble (b : Byte) : Fin 16 := ⟨b.toNat % 16, by omega⟩

/-- The key a register's value selects, `V[X] & 0x0F` (R117; decision D7, log entry 10). -/
def keyOf (b : Byte) : KeyIndex := lowNibble b

/-- The address of the glyph a register's value selects, `FONT_BASE + 5 * (V[X] & 0x0F)` (R142; decision D6, log entry 9). -/
def glyphAddress (b : Byte) : Word := BitVec.ofNat 16 (Params.fontBase + 5 * (lowNibble b).val)

/-- The target of BNNN, `(NNN + zext_12(V[0])) mod 4096` (R104). -/
def indexedTarget (nnn : Addr) (v0 : Byte) : Addr := nnn + v0.setWidth 12

/-- `zext_16` of an address (R140). -/
def indexOfAddr (nnn : Addr) : Word := nnn.setWidth 16

/-- The decimal digits of a byte: hundreds, tens, units (R143). -/
def bcdDigits (b : Byte) : List Byte :=
  [BitVec.ofNat 8 (b.toNat / 100), BitVec.ofNat 8 (b.toNat / 10 % 10), BitVec.ofNat 8 (b.toNat % 10)]

/-- V0 to VX, in order (R144). -/
def State.regsUpTo (s : State) (x : Reg) : List Byte := s.v.toList.take (x.val + 1)

/-- The registers after V0 to VX took the bytes at `a`, `a + 1`, and so on (R145). -/
def State.loadRegs (s : State) (x : Reg) (a : Nat) : State :=
  { s with v := Vector.ofFn fun r : Fin 16 => if r ≤ x then s.memRead (a + r.val) else s.reg r }

/-- `I <- (I + X + 1) mod 65536` under LDST_INCREMENTS_I, I unchanged otherwise (R144, R145). -/
def State.bumpIndex (increments : Bool) (s : State) (x : Reg) : State :=
  if increments then s.setI (s.i + BitVec.ofNat 16 (x.val + 1)) else s

/-! ### Pixels of a sprite -/

/-- A pixel: its column, 0 to 63, and its row, 0 to 31 (R150). -/
abbrev Pixel := Fin 64 × Fin 32

/-- `(x0 + b) mod 64` (R152, R154). -/
def spriteColumn (x0 : Byte) (b : Nat) : Fin 64 := ⟨(x0.toNat + b) % 64, by omega⟩

/-- `(y0 + r) mod 32` (R152, R154). -/
def spriteRow (y0 : Byte) (r : Nat) : Fin 32 := ⟨(y0.toNat + r) % 32, by omega⟩

/-- The pixels of one sprite byte that is drawn from column `x0` in row `y`: one for each set bit, bit 7 leftmost (R152, R153;
decision D13, log entry 16). -/
def rowPixels (x0 : Byte) (y : Fin 32) (row : Byte) : List Pixel :=
  ((List.range 8).filter fun b => row.getLsbD (7 - b)).map fun b => (spriteColumn x0 b, y)

/-- The pixels of the sprite bytes that are drawn from `(x0, y0)`, the first of them being row `r` of the sprite (R152). -/
def spritePixels (x0 y0 : Byte) : Nat → List Byte → List Pixel
  | _, [] => []
  | r, row :: rest => rowPixels x0 (spriteRow y0 r) row ++ spritePixels x0 y0 (r + 1) rest

end Sys2Proof.Machine
end

