-- ==== Sys2Proof/Machine/Screen.lean ====
section
/-! DEFINITION. Operations on the display (spec/45_display.md). -/

namespace Sys2Proof.Machine

/-- `Pix[x][y]` (R11, R150). -/
def Display.pixel (d : Display) (p : Pixel) : Bool := d[p.2][p.1]

/-- `Pix[x][y] <- Pix[x][y] XOR 1` (R152). -/
def Display.toggle (d : Display) (p : Pixel) : Display := d.set p.2 (d[p.2].set p.1 (!d[p.2][p.1]))

/-- The display with every pixel 0 (R151). -/
def Display.blank : Display := Vector.replicate 32 (Vector.replicate 64 false)

/-- The pixels of a list toggled one after the other, and whether any of them went from set to unset, or `c` held before (R152). -/
def Display.draw : List Pixel → Display → Bool → Display × Bool
  | [], d, c => (d, c)
  | p :: rest, d, c => Display.draw rest (Display.toggle d p) (c || Display.pixel d p)

/-- `Pix[x][y]` of the state's display (R11). -/
def State.pixel (s : State) (x : Fin 64) (y : Fin 32) : Bool := Display.pixel s.display (x, y)

end Sys2Proof.Machine
end

