-- ==== Sys2Proof/Machine/Drawing.lean ====
section
/-! DEFINITION. The display instructions 00E0 and DXYN (spec/45_display.md). -/

namespace Sys2Proof.Machine

/-- 00E0: every pixel 0; the step answers Continue (R151, R94). -/
def execCls (s : State) : Answer := done { s with display := Display.blank }

/-- The display after a sprite was drawn, and whether a pixel went from set to unset (R152). -/
def State.drawSprite (s : State) (x0 y0 : Byte) (n : Nat) : Display × Bool :=
  Display.draw (spritePixels x0 y0 0 (s.readBytes s.i.toNat n)) s.display false

/-- DXYN: the sprite is XORed onto the display, VF is the collision flag, and the step answers Redraw whatever changed (R152,
R156, R158; decision D12, log entry 15). -/
def execDrw (x y : Reg) (n : Fin 16) (s : State) : Answer :=
  .next (({ s with display := (s.drawSprite (s.reg x) (s.reg y) n.val).1 }.setReg VF
    (flagByte (s.drawSprite (s.reg x) (s.reg y) n.val).2)).returning .redraw)

end Sys2Proof.Machine
end

