-- ==== Sys2Proof/Machine/Flow.lean ====
section
/-! DEFINITION. Control transfer: 0NNN, 00EE, 1NNN, 2NNN, BNNN (spec/41_flow.md). Each meaning starts with pc already advanced
(R92). -/

namespace Sys2Proof.Machine

/-- 0NNN: the machine call is reported as a decode failure with its word (R100). -/
def execSys (nnn : Addr) (s : State) : Answer := raiseFailure s (.decodeError (sysWord nnn))

/-- 00EE: the popped address goes to pc, or StackUnderflow (R101). -/
def execRet (s : State) : Answer :=
  match s.pop with
  | some (a, t) => done (t.setPc a)
  | none => raiseFailure s .stackUnderflow

/-- 1NNN: `pc <- NNN` (R102). -/
def execJp (nnn : Addr) (s : State) : Answer := done (s.setPc nnn)

/-- 2NNN: the advanced pc is pushed and `pc <- NNN`, or StackOverflow (R103). -/
def execCall (nnn : Addr) (s : State) : Answer :=
  match s.push s.pc with
  | some t => done (t.setPc nnn)
  | none => raiseFailure s .stackOverflow

/-- BNNN: `pc <- (NNN + zext_12(V[0])) mod 4096` (R104). -/
def execJpV0 (nnn : Addr) (s : State) : Answer := done (s.setPc (indexedTarget nnn (s.reg 0)))

end Sys2Proof.Machine
end

