-- ==== Sys2Proof/Machine/IndexMemory.lean ====
section
/-! DEFINITION. Index register and memory: ANNN, FX1E, FX29, FX33, FX55, FX65 (spec/44_index_memory.md). -/

namespace Sys2Proof.Machine

/-- ANNN (R140). -/
def execLdI (nnn : Addr) (s : State) : Answer := done (s.setI (indexOfAddr nnn))

/-- FX1E: the sum modulo 65536, and VF from the 16-bit overflow (R141). -/
def execAddI (x : Reg) (s : State) : Answer :=
  done ((s.setI (s.i + (s.reg x).setWidth 16)).setReg VF
    (indexFlag Params.noOverflowVF (indexOverflows s.i (s.reg x)) (s.reg VF)))

/-- FX29 (R142). -/
def execLdF (x : Reg) (s : State) : Answer := done (s.setI (glyphAddress (s.reg x)))

/-- FX33: the three decimal digits at I, I + 1, I + 2 (R143). -/
def execLdB (x : Reg) (s : State) : Answer := done (s.writeBytes s.i.toNat (bcdDigits (s.reg x)))

/-- FX55: V0 to VX at I, I + 1, and so on (R144). -/
def execLdMemVx (x : Reg) (s : State) : Answer :=
  done ((s.writeBytes s.i.toNat (s.regsUpTo x)).bumpIndex Params.ldstIncrementsI x)

/-- FX65: V0 to VX from I, I + 1, and so on (R145). -/
def execLdVxMem (x : Reg) (s : State) : Answer :=
  done ((s.loadRegs x s.i.toNat).bumpIndex Params.ldstIncrementsI x)

end Sys2Proof.Machine
end

