-- ==== Sys2Proof/Machine/Skips.lean ====
section
/-! DEFINITION. Conditional skips: 3XNN, 4XNN, 5XY0, 9XY0, EX9E, EXA1 (spec/42_skips.md). -/

namespace Sys2Proof.Machine

/-- 3XNN (R111). -/
def execSeImm (x : Reg) (nn : Byte) (s : State) : Answer := done (s.skipIf (s.reg x == nn))

/-- 4XNN (R112). -/
def execSneImm (x : Reg) (nn : Byte) (s : State) : Answer := done (s.skipIf (s.reg x != nn))

/-- 5XY0 (R113). -/
def execSeReg (x y : Reg) (s : State) : Answer := done (s.skipIf (s.reg x == s.reg y))

/-- 9XY0 (R114). -/
def execSneReg (x y : Reg) (s : State) : Answer := done (s.skipIf (s.reg x != s.reg y))

/-- EX9E: skip if the selected key is pressed (R115, R117). -/
def execSkp (x : Reg) (s : State) : Answer := done (s.skipIf (s.key (keyOf (s.reg x))))

/-- EXA1: skip if the selected key is not pressed (R116, R117). -/
def execSknp (x : Reg) (s : State) : Answer := done (s.skipIf (!s.key (keyOf (s.reg x))))

end Sys2Proof.Machine
end

