-- ==== Sys2Proof/Machine/TimersKeypad.lean ====
section
/-! DEFINITION. Timer instructions and the keypad wait: FX07, FX15, FX18, FX0A (spec/46_timers_keypad.md). -/

namespace Sys2Proof.Machine

/-- FX07 (R160). -/
def execLdVxDT (x : Reg) (s : State) : Answer := done (s.setReg x s.dt)

/-- FX15 (R161). -/
def execLdDTVx (x : Reg) (s : State) : Answer := done { s with dt := s.reg x }

/-- FX18 (R162). -/
def execLdSTVx (x : Reg) (s : State) : Answer := done { s with st := s.reg x }

/-- The keypress-wait state with a new value (R38). -/
def State.setWait (s : State) (w : WaitState) : State := { s with wait := w }

/-- FX0A: from Idle it arms and goes back to its own address, from Armed it goes back again and keeps its target (R165; decision
D16, log entry 17), from Captured it acknowledges and goes on (R164, R166). -/
def execLdVxK (x : Reg) (s : State) : Answer :=
  match s.wait with
  | .idle => done (s.rewindPc.setWait (.armed x))
  | .armed _ => done s.rewindPc
  | .captured _ => done (s.setWait .idle)

end Sys2Proof.Machine
end

