-- ==== Sys2Proof/Machine/Fetch.lean ====
section
/-! DEFINITION. Fetching an instruction word at the program counter (spec/40_cycle.md R91), and placing one there. -/

namespace Sys2Proof.Machine

/-- The word fetched: the bytes at pc and pc + 1, the first one more significant (R53, R91). -/
def State.fetchWord (s : State) : Word :=
  wordOfBytes Params.byteOrder (s.memRead s.pc.toNat) (s.memRead (s.pc.toNat + 1))

/-- The state with a word stored where the next fetch reads it. -/
def State.placeWord (s : State) (w : Word) : State :=
  s.writeBytes s.pc.toNat [firstByte Params.byteOrder w, secondByte Params.byteOrder w]

/-- A step whose word selects no instruction: `raise DecodeError(w)` (R97, R181). -/
def rejectWord (w : Word) (s : State) : Answer := raiseFailure s (.decodeError w)

end Sys2Proof.Machine
end

