-- ==== Sys2Proof/Machine/Step.lean ====
section
/-! DEFINITION. `step()`: fetch, advance, decode, execute (spec/40_cycle.md R90). -/

namespace Sys2Proof.Machine

/-- One step of the core (R90): a word that decodes runs with pc advanced (R92), any other is a decode failure carrying the word
(R97). What the step returns is the new state's `reply`. -/
def step (s : State) : Host.Outcome State Fault Refusal :=
  match decode s.fetchWord with
  | .ok i => exec i s.advancePc
  | .error _ => rejectWord s.fetchWord s.advancePc

/-- The state with an instruction's word, its bits numbered as spec/opcode_table.json numbers them, stored at pc and pc + 1, where
the next step fetches. It stands for the load of a program from outside (R211; log entry 26). -/
def State.withFetchWord (s : State) (nbits w : Nat) : State := s.placeWord (BitVec.ofNat 16 (w % 2 ^ nbits))

end Sys2Proof.Machine
end

