-- ==== Sys2Proof/Machine/Transactions.lean ====
section
/-! DEFINITION. The host's transactions (spec/60_exceptions.md R195): each is atomic and falls between steps (R58, R62). -/

namespace Sys2Proof.Machine

/-- The state in which a transaction that returns nothing has ended. -/
def State.returningNothing (s : State) : State := { s with reply := none }

/-- `load(bytes)` (R211, R212; decision D20, log entry 21): the bytes from ENTRY on and `Ok`, or `LoadError` and no change if they
do not fit. -/
def load (bytes : List Byte) (s : State) : State :=
  if bytes.length ≤ Config.maxProgram then (s.writeBytes Config.entry bytes).returning .loadOk
  else s.returning .loadError

/-- `reset()` (R213, R214; decision D19, log entry 20). -/
def resetMachine (s : State) : State :=
  { s.writeBytes Params.fontBase Params.fontData with
    v := Vector.replicate 16 0
    i := 0
    pc := BitVec.ofNat 12 Config.entry
    stack := Vector.replicate 16 0
    sp := 0
    dt := 0
    st := 0
    display := if Params.resetClearsDisplay then Display.blank else s.display
    wait := if Params.resetClearsWait then .idle else s.wait
    reply := none }

/-- A timer one tick later: toward zero, and never below it (R191). -/
def tickDown (b : Byte) : Byte := if b = 0 then 0 else b - 1

/-- `tick_timers()` (R191). -/
def tickTimers (s : State) : State := ({ s with dt := tickDown s.dt, st := tickDown s.st }).returningNothing

/-- The capture of key `k` by a press transition (R167): only an armed wait takes it. -/
def State.capture (s : State) (k : KeyIndex) : State :=
  match s.wait with
  | .armed t => { s.setReg t (BitVec.ofNat 8 k.val) with wait := .captured k }
  | .idle => s
  | .captured _ => s

/-- `set_key(k, p)` on a key of the keypad (R196, R168; decision D17, log entry 18). -/
def pressOrRelease (k : KeyIndex) (p : Bool) (s : State) : State :=
  if p && !s.key k then ((s.setKey k p).capture k).returningNothing else (s.setKey k p).returningNothing

/-- `set_key(k, p)` (R196); an index above 15 is outside the interface and is refused (R198; decision D24, log entry 23). -/
def setKeyTransaction (k : Nat) (p : Bool) (s : State) : Answer :=
  if h : k < Config.numKeys then .next (pressOrRelease ⟨k, h⟩ p s) else .refused (.keyIndexOutOfRange k)

/-- The read of the pixel grid (R197). -/
def readPixels (s : State) : State := s.returning (.pixels s.display)

/-- The read of the sound timer (R197). -/
def readSoundTimer (s : State) : State := s.returning (.soundTimer s.st)

/-- The transactions of the block's interface (R195). -/
inductive Transaction where
  /-- `step()` -/
  | step
  /-- `load(bytes)` -/
  | load (bytes : List Byte)
  /-- `reset()` -/
  | reset
  /-- `tick_timers()` -/
  | tickTimers
  /-- `set_key(k, pressed)` -/
  | setKey (k : Nat) (pressed : Bool)
  /-- the read of the pixel grid -/
  | readPixels
  /-- the read of the sound timer -/
  | readSoundTimer
  deriving DecidableEq, Repr

/-- One transaction (R195). -/
def transact (a : Transaction) (s : State) : Answer :=
  match a with
  | .step => step s
  | .load bytes => .next (load bytes s)
  | .reset => .next (resetMachine s)
  | .tickTimers => .next (tickTimers s)
  | .setKey k p => setKeyTransaction k p s
  | .readPixels => .next (readPixels s)
  | .readSoundTimer => .next (readSoundTimer s)

/-- A host's script, its transactions in the order the host makes them (R62, R226). -/
def transactAll : List Transaction → State → Answer
  | [], s => .next s
  | a :: rest, s =>
      match transact a s with
      | .next t => transactAll rest t
      | .fault f => .fault f
      | .refused r => .refused r

end Sys2Proof.Machine
end

