-- ==== Sys2Proof/Safety.lean ====
section
/-! DEFINITION. The terms claims are stated in: failures and failure-free runs, the parts of the state and what leaves them alone,
which instruction may write what, and the invariants. -/

namespace Sys2Proof.Machine

/-! ### Failures -/

/-- The failures of a step (R180): DecodeError, StackOverflow, StackUnderflow. -/
def Reply.isFailure : Reply → Bool
  | .decodeError _ | .stackOverflow | .stackUnderflow => true
  | .continue | .redraw | .loadOk | .loadError | .pixels _ | .soundTimer _ => false

/-- The latest transaction was a step that failed. -/
def State.failed (s : State) : Bool :=
  match s.reply with
  | some r => r.isFailure
  | none => false

/-- A safe run of `n` steps: none of them fails. The core itself keeps no record of a failure (R188), so a claim that a program
never fails looks at every step (spec/93_implementation_defined.md, notes to U4 and U22). -/
def failureFree : Nat → State → Bool
  | 0, _ => true
  | n + 1, s =>
      match step s with
      | .next t => !t.failed && failureFree n t
      | .fault _ | .refused _ => false

/-! ### The parts of the state -/

/-- The parts of the state (R41, R44), but for the reply, which every transaction sets. -/
inductive Part where
  | registers | index | programCounter | stackPointer | stackEntries | delayTimer | soundTimer | display | keypad | wait
  | memory | random
  deriving DecidableEq, Repr

/-- A part is the same in two states: memory and the display by their reads, byte by byte and pixel by pixel. -/
def Part.Same (s t : State) : Part → Prop
  | .registers => ∀ r, t.reg r = s.reg r
  | .index => t.i = s.i
  | .programCounter => t.pc = s.pc
  | .stackPointer => t.sp = s.sp
  | .stackEntries => t.stack = s.stack
  | .delayTimer => t.dt = s.dt
  | .soundTimer => t.st = s.st
  | .display => ∀ x y, t.pixel x y = s.pixel x y
  | .keypad => ∀ k, t.key k = s.key k
  | .wait => t.wait = s.wait
  | .memory => ∀ a, t.memRead a = s.memRead a
  | .random => t.randomIndex = s.randomIndex

/-- From `s` to `t`, every part that is not listed is unchanged. -/
def SameExcept (parts : List Part) (s t : State) : Prop := ∀ p, p ∉ parts → Part.Same s t p

/-- From `s` to `t`, no register but the listed ones changes, and no other part. -/
def OnlyRegisters (rs : List Reg) (s t : State) : Prop := (∀ r, r ∉ rs → t.reg r = s.reg r) ∧ SameExcept [.registers] s t

/-! ### Which instruction may write what -/

/-- May this instruction write register `r` (R22)? -/
def writesReg (r : Reg) : Instr → Bool
  | .ldImm x _ | .addImm x _ | .rnd x _ | .ldVxDT x => r == x
  | .ldReg x _ | .orReg x _ | .andReg x _ | .xorReg x _ => r == x
  | .addReg x _ | .subReg x _ | .shr x _ | .subn x _ | .shl x _ => r == x || r == VF
  | .drw _ _ _ | .addI _ => r == VF
  | .ldVxMem x => r ≤ x
  | .cls | .ret | .sys _ | .jp _ | .call _ | .ldI _ | .jpV0 _ => false
  | .seImm _ _ | .sneImm _ _ | .seReg _ _ | .sneReg _ _ | .skp _ | .sknp _ => false
  | .ldVxK _ | .ldDTVx _ | .ldSTVx _ | .ldF _ | .ldB _ | .ldMemVx _ => false

/-- The parts an instruction may write, once pc is advanced (R22, R24, R26, R31, R32, R33, R34, R35, R40, R56, R163). -/
def mayWrite : Instr → List Part
  | .cls => [.display]
  | .ret => [.programCounter, .stackPointer]
  | .sys _ => []
  | .jp _ | .jpV0 _ => [.programCounter]
  | .call _ => [.programCounter, .stackPointer, .stackEntries]
  | .seImm _ _ | .sneImm _ _ | .seReg _ _ | .sneReg _ _ | .skp _ | .sknp _ => [.programCounter]
  | .ldImm _ _ | .addImm _ _ | .ldReg _ _ | .orReg _ _ | .andReg _ _ | .xorReg _ _ => [.registers]
  | .addReg _ _ | .subReg _ _ | .shr _ _ | .subn _ _ | .shl _ _ => [.registers]
  | .rnd _ _ => [.registers, .random]
  | .drw _ _ _ => [.registers, .display]
  | .ldVxDT _ | .ldVxMem _ => [.registers]
  | .ldVxK _ => [.programCounter, .wait]
  | .ldDTVx _ => [.delayTimer]
  | .ldSTVx _ => [.soundTimer]
  | .ldI _ | .ldF _ => [.index]
  | .addI _ => [.registers, .index]
  | .ldB _ | .ldMemVx _ => [.memory]

/-! ### The sprite of a draw -/

/-- The pixel (x, y) is covered by a set bit of the `n`-row sprite at I that is drawn from (x0, y0): some row `r` and column offset
`b` of it lands there (R152, R154). -/
def SpriteCovers (s : State) (x0 y0 : Byte) (n : Nat) (x : Fin 64) (y : Fin 32) : Prop :=
  ∃ r b, r < n ∧ b < 8 ∧ (s.memRead (s.i.toNat + r)).getLsbD (7 - b) = true ∧
    x.val = (x0.toNat + b) % 64 ∧ y.val = (y0.toNat + r) % 32

/-! ### The call stack as a sequence -/

/-- The addresses of a list pushed one after the other, none if one push overflows (R27). -/
def pushAll : List Addr → State → Option State
  | [], s => some s
  | a :: rest, s =>
      match s.push a with
      | some t => pushAll rest t
      | none => none

/-- `n` pops: the addresses in the order they come, and the state after them, none if one pop underflows (R28). -/
def popAll : Nat → State → Option (List Addr × State)
  | 0, s => some ([], s)
  | n + 1, s =>
      match s.pop with
      | some (a, t) =>
          match popAll n t with
          | some (rest, u) => some (a :: rest, u)
          | none => none
      | none => none

/-! ### Invariants -/

/-- Memory keeps its canonical form. -/
abbrev State.MemoryCanonical (s : State) : Prop := s.mem.wf

/-- While a wait is under way, the word at pc is the FX0A that waits, and a captured key already stands in its target register
(R165, R167, R170). -/
def State.WaitCoherent (s : State) : Prop :=
  match s.wait with
  | .idle => True
  | .armed t => decode s.fetchWord = .ok (.ldVxK t)
  | .captured k => ∃ t, decode s.fetchWord = .ok (.ldVxK t) ∧ s.reg t = BitVec.ofNat 8 k.val

/-- The invariant of the machine. -/
def State.Inv (s : State) : Prop := s.MemoryCanonical ∧ s.WaitCoherent

end Sys2Proof.Machine
end

