-- ==== Sys2Proof/Certificates/Slice0/Obligations.lean ====
section
/-! DEFINITION. The statements for the provers. Each docstring says what the statement formalises; the spec's rules it rests on are
listed in OBLIGATIONS.json. `exec` is stated with pc already advanced (R92). -/

open Sys2Proof Sys2Proof.Machine

/-- Decoding the encoded word, or its bytes, of any well-formed instruction gives it back. For every well-formed instruction,
at every value of its operands, decode (encode i) = i, and decoding its two bytes with any bytes behind them gives i and hands
the rest back. -/
def Obligations.DecodeOfEncodeIsTheInstruction : Prop :=
  ∀ i : Instr, i.wellFormed = true →
    decode (encode i) = .ok i ∧ ∀ rest : List Byte, decodeBytes (encodeBytes i ++ rest) = .ok (i, rest)

/-- A word that decodes to an instruction is that instruction's word, but for the ignored nibble of 00E0 and 00EE. If a word
decodes to i, then i is well formed and encode i is the word, or i is CLS or RET and encode i is the word with bits 11:8
cleared. That bits 11:8 are ignored is the spec's own decision D22 (log entry 22). -/
def Obligations.EncodeOfDecodeIsTheWord : Prop :=
  ∀ (w : Word) (i : Instr), decode w = .ok i →
    i.wellFormed = true ∧ (encode i = w ∨ (i = .cls ∨ i = .ret) ∧ encode i = w &&& 0xF0FF)

/-- The decoder selects the first row of the opcode table whose mask and match the word meets, and rejects words that meet
none. For every word, the mnemonic of the decoded instruction, if there is one, is the mnemonic of the first row of
spec/opcode_table.json with word AND mask = match; there is an instruction exactly if there is such a row. The ignored nibble
of class 0 is the spec's own decision D22 (log entry 22). -/
def Obligations.DecoderFollowsTheOpcodeTable : Prop :=
  ∀ w : Word,
    (match decode w with
      | .ok i => some i.mnemonic
      | .error _ => none) = (matchingRow w).map OpcodeRow.mnemonic

/-- The decoder rejects exactly the words of classes 5, 8, 9, E and F whose sub-code selects no opcode, and no word of another
class. The decoder rejects a word exactly if its class is 5 or 9 and its low nibble is not 0, or its class is 8 and its low
nibble is 8, 9, A, B, C, D or F, or its class is E and its low byte is neither 9E nor A1, or its class is F and its low byte
is none of 07, 0A, 15, 18, 1E, 29, 33, 55, 65. A class-0 word is never rejected by the decoder: a machine call 0NNN, the 35th
opcode, decodes to an instruction whose execution is the decode failure (log entry 32). -/
def Obligations.RejectedSubCodesAreTheListedOnes : Prop :=
  ∀ w : Word,
    (∃ e, decode w = .error e) ↔
      ((opClass w = 0x5 ∨ opClass w = 0x9) ∧ bitsN w ≠ 0) ∨
      (opClass w = 0x8 ∧ bitsN w ∈ ([0x8, 0x9, 0xA, 0xB, 0xC, 0xD, 0xF] : List (BitVec 4))) ∨
      (opClass w = 0xE ∧ fieldNN w ∉ ([0x9E, 0xA1] : List Byte)) ∨
      (opClass w = 0xF ∧ fieldNN w ∉ ([0x07, 0x0A, 0x15, 0x18, 0x1E, 0x29, 0x33, 0x55, 0x65] : List Byte))

/-- Words of each family, written out from the spec, decode to the instructions they stand for. The words 00E0, 00EE, 0123,
1234, 2300, B300, 3342, 4341, 5120, 9120, E59E, E5A1, 6A05, 8124, C30F, A2F0, FA33, F255, D015, F307, F50A decode to the
instructions that spec/95_test_vectors.md runs for them. -/
def Obligations.SampleWordsDecode : Prop :=
  decode 0x00E0 = .ok .cls ∧ decode 0x00EE = .ok .ret ∧ decode 0x0123 = .ok (.sys 0x123) ∧
  decode 0x1234 = .ok (.jp 0x234) ∧ decode 0x2300 = .ok (.call 0x300) ∧ decode 0xB300 = .ok (.jpV0 0x300) ∧
  decode 0x3342 = .ok (.seImm 3 0x42) ∧ decode 0x4341 = .ok (.sneImm 3 0x41) ∧ decode 0x5120 = .ok (.seReg 1 2) ∧
  decode 0x9120 = .ok (.sneReg 1 2) ∧ decode 0xE59E = .ok (.skp 5) ∧ decode 0xE5A1 = .ok (.sknp 5) ∧
  decode 0x6A05 = .ok (.ldImm 10 0x05) ∧ decode 0x8124 = .ok (.addReg 1 2) ∧ decode 0xC30F = .ok (.rnd 3 0x0F) ∧
  decode 0xA2F0 = .ok (.ldI 0x2F0) ∧ decode 0xFA33 = .ok (.ldB 10) ∧ decode 0xF255 = .ok (.ldMemVx 2) ∧
  decode 0xD015 = .ok (.drw 0 1 5) ∧ decode 0xF307 = .ok (.ldVxDT 3) ∧ decode 0xF50A = .ok (.ldVxK 5)

/-- A step whose two bytes at pc decode to i is exec of i with pc advanced by 2. If the byte at pc followed by the byte at pc
+ 1 (both addresses modulo 4096, the first byte more significant) decode to i, then step s is exec i at s with pc advanced by
2 modulo 4096 and nothing else changed. The byte order is the spec's own decision D1 (log entry 4). -/
def Obligations.StepRunsTheDecodedInstruction : Prop :=
  ∀ (s : State) (i : Instr),
    decode (s.memRead s.pc.toNat ++ s.memRead (s.pc.toNat + 1) : BitVec (8 + 8)) = .ok i →
      step s = exec i (s.setPc (s.pc + 2))

/-- A word that selects no instruction ends the step in DecodeError with that word and changes nothing but the advanced pc. If
the fetched word is rejected, the step answers a next state whose reply is DecodeError with the word, whose pc is the failing
address plus 2, and in which nothing else changed. That pc stays advanced is the spec's own decision D14 (log entry 1). -/
def Obligations.IllegalWordIsADecodeError : Prop :=
  ∀ (s : State) (e : DecodeReject), decode s.fetchWord = .error e →
    ∃ t, step s = .next t ∧ t.reply = some (.decodeError s.fetchWord) ∧ t.pc = s.pc + 2 ∧
      SameExcept [.programCounter] s t

/-- After any failed step everything is as before but pc, which is advanced by 2. If a step answers a state in which it failed
(DecodeError, StackOverflow or StackUnderflow), then pc is the old pc plus 2 and every other part of the state is as before.
That pc stays advanced is the spec's own decision D14 (log entry 1). -/
def Obligations.FailedStepChangesOnlyThePc : Prop :=
  ∀ s t : State, step s = .next t → t.failed = true → t.pc = s.pc + 2 ∧ SameExcept [.programCounter] s t

/-- Every step answers a next state, and it reports each failure exactly when its cause holds. From every state the step
answers a next state: the core never stops by itself. Its reply is DecodeError(w) exactly if w is the fetched word and it is
rejected or is a machine call, StackOverflow exactly if the word is a call and 16 entries are held, StackUnderflow exactly if
the word is a return and none is held. -/
def Obligations.EveryStepAnswersAndFailsOnlyForItsCause : Prop :=
  ∀ s : State, ∃ t, step s = .next t ∧
    (∀ w, t.reply = some (.decodeError w) ↔
      w = s.fetchWord ∧ ((∃ e, decode s.fetchWord = .error e) ∨ ∃ nnn, decode s.fetchWord = .ok (.sys nnn))) ∧
    (t.reply = some .stackOverflow ↔ (∃ nnn, decode s.fetchWord = .ok (.call nnn)) ∧ s.sp.val = 16) ∧
    (t.reply = some .stackUnderflow ↔ decode s.fetchWord = .ok .ret ∧ s.sp.val = 0)

/-- A step returns Redraw exactly if it runs a draw, and every other successful step returns Continue. For every step that
answers a next state: its reply is Redraw exactly if the fetched word decodes to DXYN, and if it is not Redraw and not a
failure it is Continue. -/
def Obligations.OnlyADrawReturnsRedraw : Prop :=
  ∀ s t : State, step s = .next t →
    (t.reply = some .redraw ↔ ∃ x y n, decode s.fetchWord = .ok (.drw x y n)) ∧
    (t.failed = false → t.reply ≠ some .redraw → t.reply = some .continue)

/-- No instruction changes a register that the spec's table of writers does not let it write. For every instruction and state,
a register that the table of 10_state.md section 1 does not list for the instruction is the same in the next state. -/
def Obligations.RegistersChangeOnlyThroughTheirWriters : Prop :=
  ∀ (i : Instr) (s t : State) (r : Reg), exec i s = .next t → writesReg r i = false → t.reg r = s.reg r

/-- Each part of the state changes only in the instructions listed as its writers, the keypad in none. For every instruction
and state, every part of the state the instruction is not listed as writing is the same in the next state: I, pc, SP, the
stack entries, DT, ST, the display, the keypad, the wait state, memory byte by byte, the count of random bytes taken, and the
registers as a whole. The list is the spec's at its own values of its parameters: that FX55 and FX65 are no writers of I is
its decision D10 (log entry 13), and that a failing instruction leaves the advanced pc is its decision D14 (log entry 1). The
count of random bytes taken, which CXNN alone changes, is the model's own field (log entry 3, DESIGN CHOICE). -/
def Obligations.StateChangesOnlyThroughItsWriters : Prop :=
  ∀ (i : Instr) (s t : State), exec i s = .next t → SameExcept (mayWrite i) s t

/-- 6XNN sets V[X] to NN and nothing else. The words 6XNN decode to the instruction, and from every state it answers a next
state with V[X] = NN, every other register and every other part unchanged, and Continue returned. -/
def Obligations.LoadImmediateSetsTheRegister : Prop :=
  ∀ (x : Reg) (nn : Byte), decode (formatR 0x6 x nn) = .ok (.ldImm x nn) ∧
    ∀ s : State, ∃ t, exec (.ldImm x nn) s = .next t ∧ t.reg x = nn ∧ OnlyRegisters [x] s t ∧ t.reply = some .continue

/-- 7XNN adds NN modulo 256 to V[X] and sets no flag. The words 7XNN decode to the instruction, and from every state it
answers a next state with V[X] = (V[X] + NN) mod 256, every other register (VF among them, unless X = F) and every other part
unchanged, and Continue returned. -/
def Obligations.AddImmediateWrapsWithoutAFlag : Prop :=
  ∀ (x : Reg) (nn : Byte), decode (formatR 0x7 x nn) = .ok (.addImm x nn) ∧
    ∀ s : State, ∃ t, exec (.addImm x nn) s = .next t ∧ (t.reg x).toNat = ((s.reg x).toNat + nn.toNat) % 256 ∧
      OnlyRegisters [x] s t ∧ t.reply = some .continue

/-- 8XY0 to 8XY3 assign, OR, AND and XOR V[Y] into V[X] bit by bit and set no flag. The words 8XY0, 8XY1, 8XY2, 8XY3 decode to
the four instructions. From every state each answers a next state in which V[X] is V[Y], or has in every bit the OR, AND, XOR
of V[X]'s and V[Y]'s bit, every other register and every other part is unchanged, and Continue is returned. -/
def Obligations.RegisterLogicActsBitByBit : Prop :=
  ∀ x y : Reg,
    (decode (formatP 0x8 x y 0x0) = .ok (.ldReg x y) ∧ decode (formatP 0x8 x y 0x1) = .ok (.orReg x y) ∧
      decode (formatP 0x8 x y 0x2) = .ok (.andReg x y) ∧ decode (formatP 0x8 x y 0x3) = .ok (.xorReg x y)) ∧
    ∀ s : State,
      (∃ t, exec (.ldReg x y) s = .next t ∧ t.reg x = s.reg y ∧ OnlyRegisters [x] s t ∧ t.reply = some .continue) ∧
      (∃ t, exec (.orReg x y) s = .next t ∧
        (∀ k, (t.reg x).getLsbD k = ((s.reg x).getLsbD k || (s.reg y).getLsbD k)) ∧
        OnlyRegisters [x] s t ∧ t.reply = some .continue) ∧
      (∃ t, exec (.andReg x y) s = .next t ∧
        (∀ k, (t.reg x).getLsbD k = ((s.reg x).getLsbD k && (s.reg y).getLsbD k)) ∧
        OnlyRegisters [x] s t ∧ t.reply = some .continue) ∧
      (∃ t, exec (.xorReg x y) s = .next t ∧
        (∀ k, (t.reg x).getLsbD k = ((s.reg x).getLsbD k ^^ (s.reg y).getLsbD k)) ∧
        OnlyRegisters [x] s t ∧ t.reply = some .continue)

/-- 8XY4 gives the sum modulo 256 and VF = 1 exactly if it exceeds 255; with X = F the flag is what stays. The words 8XY4
decode to the instruction, and from every state it answers a next state with VF = 1 if V[X] + V[Y] > 255 and 0 otherwise, V[X]
the sum mod 256 if X is not F, nothing else changed, and Continue. That the flag stays when X = F is the spec's own decision
D8 (log entry 11). -/
def Obligations.AddWithCarrySetsSumAndFlag : Prop :=
  ∀ x y : Reg, decode (formatP 0x8 x y 0x4) = .ok (.addReg x y) ∧
    ∀ s : State, ∃ t, exec (.addReg x y) s = .next t ∧
      (x ≠ VF → (t.reg x).toNat = ((s.reg x).toNat + (s.reg y).toNat) % 256) ∧
      t.reg VF = (if 255 < (s.reg x).toNat + (s.reg y).toNat then 1 else 0) ∧
      OnlyRegisters [x, VF] s t ∧ t.reply = some .continue

/-- 8XY5 and 8XY7 give the difference modulo 256 and VF = 1 exactly if there is no borrow; with X = F the flag is what stays.
The words 8XY5 and 8XY7 decode to the instructions. From every state 8XY5 gives V[X] = (V[X] - V[Y]) mod 256 and VF = 1 if
V[X] >= V[Y] else 0, 8XY7 gives V[X] = (V[Y] - V[X]) mod 256 and VF = 1 if V[Y] >= V[X] else 0 (V[X] as stated if X is not F),
with nothing else changed and Continue returned. That the flag stays when X = F is the spec's own decision D8 (log entry 11).
-/
def Obligations.SubtractionsSetDifferenceAndNoBorrow : Prop :=
  ∀ x y : Reg,
    (decode (formatP 0x8 x y 0x5) = .ok (.subReg x y) ∧ decode (formatP 0x8 x y 0x7) = .ok (.subn x y)) ∧
    ∀ s : State,
      (∃ t, exec (.subReg x y) s = .next t ∧
        (x ≠ VF → (t.reg x).toNat = (256 + (s.reg x).toNat - (s.reg y).toNat) % 256) ∧
        t.reg VF = (if (s.reg y).toNat ≤ (s.reg x).toNat then 1 else 0) ∧
        OnlyRegisters [x, VF] s t ∧ t.reply = some .continue) ∧
      (∃ t, exec (.subn x y) s = .next t ∧
        (x ≠ VF → (t.reg x).toNat = (256 + (s.reg y).toNat - (s.reg x).toNat) % 256) ∧
        t.reg VF = (if (s.reg x).toNat ≤ (s.reg y).toNat then 1 else 0) ∧
        OnlyRegisters [x, VF] s t ∧ t.reply = some .continue)

/-- 8XY6 and 8XYE shift V[Y] into V[X]; VF is the bit shifted out, for the left shift as the raw 0x80. The words 8XY6 and 8XYE
decode to the instructions. From every state 8XY6 gives V[X] = V[Y] div 2 and VF = V[Y] mod 2, 8XYE gives V[X] = 2 V[Y] mod
256 and VF = 0x80 if V[Y] >= 128 else 0 (V[X] as stated if X is not F), with nothing else changed and Continue returned. The
raw flag of 8XYE and the flag staying when X = F are the spec's own decisions D9 and D8 (log entries 12 and 11). -/
def Obligations.ShiftsReadTheSecondRegister : Prop :=
  ∀ x y : Reg,
    (decode (formatP 0x8 x y 0x6) = .ok (.shr x y) ∧ decode (formatP 0x8 x y 0xE) = .ok (.shl x y)) ∧
    ∀ s : State,
      (∃ t, exec (.shr x y) s = .next t ∧
        (x ≠ VF → (t.reg x).toNat = (s.reg y).toNat / 2) ∧ (t.reg VF).toNat = (s.reg y).toNat % 2 ∧
        OnlyRegisters [x, VF] s t ∧ t.reply = some .continue) ∧
      (∃ t, exec (.shl x y) s = .next t ∧
        (x ≠ VF → (t.reg x).toNat = 2 * (s.reg y).toNat % 256) ∧
        t.reg VF = (if 128 ≤ (s.reg y).toNat then 0x80 else 0) ∧
        OnlyRegisters [x, VF] s t ∧ t.reply = some .continue)

/-- CXNN takes exactly one byte of the random stream and puts it, masked by NN, in V[X]. The words CXNN decode to the
instruction, and from every state it answers a next state in which one more byte of the external stream is taken, V[X] is that
byte AND NN (whatever the byte is, no bit outside NN is set), nothing else changed, and Continue is returned. The stream is a
free value: the spec's own decision D15 (log entry 3). -/
def Obligations.RandomTakesOneByteAndMasksIt : Prop :=
  ∀ (x : Reg) (nn : Byte), decode (formatR 0xC x nn) = .ok (.rnd x nn) ∧
    ∀ s : State, ∃ t, exec (.rnd x nn) s = .next t ∧
      t.reg x = Config.randomByte s.randomIndex &&& nn ∧ (∀ k, nn.getLsbD k = false → (t.reg x).getLsbD k = false) ∧
      t.randomIndex = s.randomIndex + 1 ∧ (∀ r, r ≠ x → t.reg r = s.reg r) ∧
      SameExcept [.registers, .random] s t ∧ t.reply = some .continue

/-- 3XNN, 4XNN, 5XY0 and 9XY0 add 2 to pc exactly if their comparison holds. The words of the four skips decode to the
instructions, a low nibble other than 0 in classes 5 and 9 is rejected, and from every state each answers a next state with pc
+ 2 (modulo 4096) if V[X] = NN, V[X] != NN, V[X] = V[Y], V[X] != V[Y] respectively and pc unchanged otherwise, nothing else
changed, and Continue returned. -/
def Obligations.RegisterSkipsAdvanceByTwoMore : Prop :=
  ∀ (x y : Reg) (nn : Byte),
    (decode (formatR 0x3 x nn) = .ok (.seImm x nn) ∧ decode (formatR 0x4 x nn) = .ok (.sneImm x nn) ∧
      decode (formatP 0x5 x y 0x0) = .ok (.seReg x y) ∧ decode (formatP 0x9 x y 0x0) = .ok (.sneReg x y)) ∧
    (∀ n : BitVec 4, n ≠ 0 →
      (∃ e, decode (formatP 0x5 x y n) = .error e) ∧ ∃ e, decode (formatP 0x9 x y n) = .error e) ∧
    ∀ s : State,
      (∃ t, exec (.seImm x nn) s = .next t ∧ t.pc = (if s.reg x = nn then s.pc + 2 else s.pc) ∧
        SameExcept [.programCounter] s t ∧ t.reply = some .continue) ∧
      (∃ t, exec (.sneImm x nn) s = .next t ∧ t.pc = (if s.reg x = nn then s.pc else s.pc + 2) ∧
        SameExcept [.programCounter] s t ∧ t.reply = some .continue) ∧
      (∃ t, exec (.seReg x y) s = .next t ∧ t.pc = (if s.reg x = s.reg y then s.pc + 2 else s.pc) ∧
        SameExcept [.programCounter] s t ∧ t.reply = some .continue) ∧
      (∃ t, exec (.sneReg x y) s = .next t ∧ t.pc = (if s.reg x = s.reg y then s.pc else s.pc + 2) ∧
        SameExcept [.programCounter] s t ∧ t.reply = some .continue)

/-- EX9E and EXA1 add 2 to pc exactly if the key of V[X]'s low nibble is pressed, respectively not pressed. The words EX9E and
EXA1 decode to the instructions. From every state, with k the low nibble of V[X], EX9E answers a next state with pc + 2 if key
k is pressed and pc unchanged otherwise, EXA1 the other way round, nothing else changed (the wait state neither), and Continue
returned. Taking the low nibble is the spec's own decision D7 (log entry 10). -/
def Obligations.KeySkipsTestTheSelectedKey : Prop :=
  ∀ x : Reg,
    (decode (formatR 0xE x 0x9E) = .ok (.skp x) ∧ decode (formatR 0xE x 0xA1) = .ok (.sknp x)) ∧
    ∀ (s : State) (k : KeyIndex), k.val = (s.reg x).toNat % 16 →
      (∃ t, exec (.skp x) s = .next t ∧ t.pc = (if s.key k = true then s.pc + 2 else s.pc) ∧
        SameExcept [.programCounter] s t ∧ t.reply = some .continue) ∧
      (∃ t, exec (.sknp x) s = .next t ∧ t.pc = (if s.key k = true then s.pc else s.pc + 2) ∧
        SameExcept [.programCounter] s t ∧ t.reply = some .continue)

/-- 1NNN sets pc to NNN, odd targets among them, and nothing else. The words 1NNN decode to the instruction, and from every
state it answers a next state with pc = NNN, whatever NNN is, nothing else changed, and Continue returned. That an odd target
is accepted is the spec's own decision D3 (log entry 6). -/
def Obligations.JumpTakesAnyTarget : Prop :=
  ∀ nnn : Addr, decode (formatA 0x1 nnn) = .ok (.jp nnn) ∧
    ∀ s : State, ∃ t, exec (.jp nnn) s = .next t ∧ t.pc = nnn ∧ SameExcept [.programCounter] s t ∧
      t.reply = some .continue

/-- BNNN sets pc to NNN plus V0 modulo 4096 and nothing else. The words BNNN decode to the instruction (bits 11:8 are part of
NNN), and from every state it answers a next state with pc = (NNN + V0) mod 4096, nothing else changed, and Continue returned.
-/
def Obligations.IndexedJumpAddsRegisterZero : Prop :=
  ∀ nnn : Addr, decode (formatA 0xB nnn) = .ok (.jpV0 nnn) ∧
    ∀ s : State, ∃ t, exec (.jpV0 nnn) s = .next t ∧ t.pc.toNat = (nnn.toNat + (s.reg 0).toNat) % 4096 ∧
      SameExcept [.programCounter] s t ∧ t.reply = some .continue

/-- 2NNN pushes the advanced pc and jumps if fewer than 16 entries are held, and fails with StackOverflow otherwise. The words
2NNN decode to the instruction. With SP below 16 it answers a next state with S[SP] the pc before it, every other entry
unchanged, SP one more, pc = NNN, nothing else changed, and Continue. With SP = 16 it answers a next state that returns
StackOverflow and changes nothing: SP, every entry and the advanced pc stay. That pc stays advanced is the spec's own decision
D14 (log entry 1). -/
def Obligations.CallPushesTheReturnAddress : Prop :=
  ∀ nnn : Addr, decode (formatA 0x2 nnn) = .ok (.call nnn) ∧
    ∀ s : State,
      (∀ h : s.sp.val < 16, ∃ t, exec (.call nnn) s = .next t ∧ t.pc = nnn ∧ t.sp.val = s.sp.val + 1 ∧
        t.stack[s.sp.val] = s.pc ∧ (∀ k, ∀ hk : k < 16, k ≠ s.sp.val → t.stack[k] = s.stack[k]) ∧
        SameExcept [.programCounter, .stackPointer, .stackEntries] s t ∧ t.reply = some .continue) ∧
      (s.sp.val = 16 → ∃ t, exec (.call nnn) s = .next t ∧ t.reply = some .stackOverflow ∧ SameExcept [] s t)

/-- 00EE takes the entry pushed last to pc and lowers SP; the entries keep their values. The words 0zEE decode to the
instruction for every nibble z (the spec's own decision D22, log entry 22). With SP above 0 it answers a next state with pc =
S[SP - 1], SP one less, every stack entry and every other part unchanged, and Continue returned. -/
def Obligations.ReturnPopsTheLastEntry : Prop :=
  (∀ z : Reg, decode (formatR 0x0 z 0xEE) = .ok .ret) ∧
    ∀ (s : State) (h : 0 < s.sp.val), ∃ t, exec .ret s = .next t ∧ t.pc = s.stack[s.sp.val - 1]'(by omega) ∧
      t.sp.val + 1 = s.sp.val ∧ SameExcept [.programCounter, .stackPointer] s t ∧ t.reply = some .continue

/-- A call with 16 entries held and a return with none report their failure and change no stack state. With SP = 16 every call
answers a next state that returns StackOverflow, with SP = 0 the return answers one that returns StackUnderflow, and in both
SP and every entry are unchanged. -/
def Obligations.FailedPushOrPopLeavesTheStack : Prop :=
  ∀ s : State,
    (s.sp.val = 16 → ∀ nnn, ∃ t, exec (.call nnn) s = .next t ∧ t.reply = some .stackOverflow ∧ t.sp = s.sp ∧
      t.stack = s.stack) ∧
    (s.sp.val = 0 → ∃ t, exec .ret s = .next t ∧ t.reply = some .stackUnderflow ∧ t.sp = s.sp ∧ t.stack = s.stack)

/-- A return with the stack as a call left it goes to the instruction after the call and restores SP. If a call succeeds from
s and u has the call's stack pointer and entries, whatever else happened, then a return at u answers a next state with pc the
pc the call saw (the address after the call) and SP what it was before the call. -/
def Obligations.ReturnGoesBackToTheCall : Prop :=
  ∀ (nnn : Addr) (s t u : State), exec (.call nnn) s = .next t → t.failed = false → u.sp = t.sp → u.stack = t.stack →
    ∃ v, exec .ret u = .next v ∧ v.pc = s.pc ∧ v.sp = s.sp ∧ v.reply = some .continue

/-- Addresses pushed within the capacity of 16 are popped in reverse order; one push more overflows. For every list of
addresses: if it fits above SP, pushing it succeeds and raises SP by its length, and as many pops give it back in reverse
order and restore SP; if it does not fit, a push of it overflows. -/
def Obligations.StackIsLastInFirstOut : Prop :=
  ∀ (as : List Addr) (s : State),
    (s.sp.val + as.length ≤ 16 → ∃ t u, pushAll as s = some t ∧ t.sp.val = s.sp.val + as.length ∧
      popAll as.length t = some (as.reverse, u) ∧ u.sp = s.sp) ∧
    (16 < s.sp.val + as.length → pushAll as s = none)

/-- 0NNN returns DecodeError with its word and changes nothing. A class-0 word whose low byte is neither E0 nor EE decodes to
the machine call, and from every state the machine call answers a next state that returns DecodeError with the word and
changes nothing. Looking at the low byte alone and leaving pc advanced are the spec's own decisions D22 and D14 (log entries
22 and 1). -/
def Obligations.MachineCallIsADecodeFailure : Prop :=
  ∀ nnn : Addr,
    (nnn.extractLsb' 0 8 ≠ 0xE0#8 → nnn.extractLsb' 0 8 ≠ 0xEE#8 → decode (formatA 0x0 nnn) = .ok (.sys nnn)) ∧
    ∀ s : State, ∃ t, exec (.sys nnn) s = .next t ∧ t.reply = some (.decodeError (formatA 0x0 nnn)) ∧ SameExcept [] s t

/-- ANNN sets I to NNN with bits 15:12 zero and nothing else. The words ANNN decode to the instruction, and from every state
it answers a next state with I = NNN, nothing else changed, and Continue returned. -/
def Obligations.SetIndexZeroExtendsTheAddress : Prop :=
  ∀ nnn : Addr, decode (formatA 0xA nnn) = .ok (.ldI nnn) ∧
    ∀ s : State, ∃ t, exec (.ldI nnn) s = .next t ∧ t.i.toNat = nnn.toNat ∧ SameExcept [.index] s t ∧
      t.reply = some .continue

/-- FX1E adds V[X] to I modulo 65536 and sets VF to 1 exactly on 16-bit overflow, leaving it otherwise. The words FX1E decode
to the instruction, and from every state it answers a next state with I = (I + V[X]) mod 65536, VF = 1 if I + V[X] > 65535 and
unchanged otherwise, nothing else changed, and Continue returned. That VF is unchanged without overflow is the spec's own
decision D11 (log entry 14). -/
def Obligations.AddToIndexFlagsSixteenBitOverflow : Prop :=
  ∀ x : Reg, decode (formatR 0xF x 0x1E) = .ok (.addI x) ∧
    ∀ s : State, ∃ t, exec (.addI x) s = .next t ∧ t.i.toNat = (s.i.toNat + (s.reg x).toNat) % 65536 ∧
      t.reg VF = (if 65535 < s.i.toNat + (s.reg x).toNat then 1 else s.reg VF) ∧
      (∀ r, r ≠ VF → t.reg r = s.reg r) ∧ SameExcept [.registers, .index] s t ∧ t.reply = some .continue

/-- FX29 sets I to FONT_BASE plus 5 times the low nibble of V[X]. The words FX29 decode to the instruction, and from every
state it answers a next state with I = FONT_BASE + 5 * (V[X] mod 16), nothing else changed, and Continue returned. FONT_BASE
and the low nibble are the spec's own decisions D4 and D6 (log entries 7 and 9). -/
def Obligations.GlyphAddressIsFiveTimesTheDigit : Prop :=
  ∀ x : Reg, decode (formatR 0xF x 0x29) = .ok (.ldF x) ∧
    ∀ s : State, ∃ t, exec (.ldF x) s = .next t ∧ t.i.toNat = Params.fontBase + 5 * ((s.reg x).toNat % 16) ∧
      SameExcept [.index] s t ∧ t.reply = some .continue

/-- FX33 stores hundreds, tens and units of V[X] at I, I + 1, I + 2 modulo 4096 and changes no other byte. The words FX33
decode to the instruction, and from every state with canonical memory it answers a next state in which the bytes at I, I + 1
and I + 2 (modulo 4096) are V[X] div 100, (V[X] div 10) mod 10 and V[X] mod 10, every other byte of memory and every other
part (I too) is unchanged, and Continue is returned. -/
def Obligations.DecimalDigitsAreStoredAtIndex : Prop :=
  ∀ x : Reg, decode (formatR 0xF x 0x33) = .ok (.ldB x) ∧
    ∀ s : State, s.MemoryCanonical → ∃ t, exec (.ldB x) s = .next t ∧
      (t.memRead s.i.toNat).toNat = (s.reg x).toNat / 100 ∧
      (t.memRead (s.i.toNat + 1)).toNat = (s.reg x).toNat / 10 % 10 ∧
      (t.memRead (s.i.toNat + 2)).toNat = (s.reg x).toNat % 10 ∧
      (∀ a, (∀ k < 3, a % 4096 ≠ (s.i.toNat + k) % 4096) → t.memRead a = s.memRead a) ∧
      SameExcept [.memory] s t ∧ t.reply = some .continue

/-- FX55 stores V0 to VX at I, I + 1, ... modulo 4096, changes no other byte, and leaves I alone. The words FX55 decode to the
instruction, and from every state with canonical memory it answers a next state in which, for every r up to X, the byte at I +
r (modulo 4096) is V[r], every other byte of memory and every other part (I too) is unchanged, and Continue is returned. That
I is left alone is the spec's own decision D10 (log entry 13). -/
def Obligations.StoreRegistersWritesTheBlock : Prop :=
  ∀ x : Reg, decode (formatR 0xF x 0x55) = .ok (.ldMemVx x) ∧
    ∀ s : State, s.MemoryCanonical → ∃ t, exec (.ldMemVx x) s = .next t ∧
      (∀ r : Reg, r ≤ x → t.memRead (s.i.toNat + r.val) = s.reg r) ∧
      (∀ a, (∀ r : Reg, r ≤ x → a % 4096 ≠ (s.i.toNat + r.val) % 4096) → t.memRead a = s.memRead a) ∧
      SameExcept [.memory] s t ∧ t.reply = some .continue

/-- FX65 loads V0 to VX from I, I + 1, ... modulo 4096 and changes nothing else. The words FX65 decode to the instruction, and
from every state it answers a next state in which, for every r up to X, V[r] is the byte at I + r (modulo 4096), registers
above X, memory, I and every other part are unchanged, and Continue is returned. That I is left alone is the spec's own
decision D10 (log entry 13). -/
def Obligations.LoadRegistersReadsTheBlock : Prop :=
  ∀ x : Reg, decode (formatR 0xF x 0x65) = .ok (.ldVxMem x) ∧
    ∀ s : State, ∃ t, exec (.ldVxMem x) s = .next t ∧
      (∀ r : Reg, r ≤ x → t.reg r = s.memRead ((s.i.toNat + r.val) % 4096)) ∧
      (∀ r : Reg, x < r → t.reg r = s.reg r) ∧ SameExcept [.registers] s t ∧ t.reply = some .continue

/-- A word that FX55 stores at pc is the word the next fetch reads. If FX55 with X at least 1 runs at a state with canonical
memory whose I addresses the byte at pc, then the word fetched after it is V0 followed by V1: stores are seen by the next
fetch with nothing in between. That V0 is the high byte is the spec's own decision D1 (log entry 4). -/
def Obligations.StoredWordIsFetchedNext : Prop :=
  ∀ (x : Reg) (s t : State), s.MemoryCanonical → 1 ≤ x.val → s.i.toNat % 4096 = s.pc.toNat →
    exec (.ldMemVx x) s = .next t → t.fetchWord = (s.reg 0 ++ s.reg 1 : BitVec (8 + 8))

/-- 00E0 unsets every pixel, changes nothing else and returns Continue. The words 0zE0 decode to the instruction for every
nibble z (the spec's own decision D22, log entry 22), and from every state it answers a next state in which every pixel is
unset, nothing else changed (VF neither), and Continue, not Redraw, is returned. -/
def Obligations.ClearDisplayUnsetsEveryPixel : Prop :=
  (∀ z : Reg, decode (formatR 0x0 z 0xE0) = .ok .cls) ∧
    ∀ s : State, ∃ t, exec .cls s = .next t ∧ (∀ x y, t.pixel x y = false) ∧ SameExcept [.display] s t ∧
      t.reply = some .continue

/-- DXYN inverts exactly the pixels its sprite covers, sets VF to the collision, and returns Redraw. The words DXYN decode to
the instruction. From every state it answers a next state in which a pixel is inverted exactly if a set bit of one of the N
bytes at I lands on it (bit 7 leftmost, from column V[X] and row V[Y], wrapping modulo 64 and 32), VF is 1 if a covered pixel
was set and 0 otherwise, nothing else changed, and Redraw is returned, N = 0 included. The bit order and the N = 0 case are
the spec's own decisions D13 and D12 (log entries 16 and 15). -/
def Obligations.DrawInvertsTheSpritesPixels : Prop :=
  ∀ (x y : Reg) (n : Fin 16), decode (formatP 0xD x y (bitsOf n)) = .ok (.drw x y n) ∧
    ∀ s : State, ∃ t, exec (.drw x y n) s = .next t ∧
      (∀ px py, SpriteCovers s (s.reg x) (s.reg y) n.val px py → t.pixel px py = !s.pixel px py) ∧
      (∀ px py, ¬ SpriteCovers s (s.reg x) (s.reg y) n.val px py → t.pixel px py = s.pixel px py) ∧
      ((∃ px py, SpriteCovers s (s.reg x) (s.reg y) n.val px py ∧ s.pixel px py = true) → t.reg VF = 1) ∧
      ((∀ px py, SpriteCovers s (s.reg x) (s.reg y) n.val px py → s.pixel px py = false) → t.reg VF = 0) ∧
      (∀ r, r ≠ VF → t.reg r = s.reg r) ∧ SameExcept [.registers, .display] s t ∧ t.reply = some .redraw

/-- The same draw made twice restores every pixel, and the second one collides exactly if the first set a pixel. If a draw
whose coordinates are not in VF runs, then the same draw run at once again answers a next state in which every pixel is as
before the first, and VF is 1 exactly if the first draw turned some pixel from unset to set. -/
def Obligations.DrawingTwiceRestoresTheDisplay : Prop :=
  ∀ (x y : Reg) (n : Fin 16) (s t : State), x ≠ VF → y ≠ VF → exec (.drw x y n) s = .next t →
    ∃ u, exec (.drw x y n) t = .next u ∧ (∀ px py, u.pixel px py = s.pixel px py) ∧
      (u.reg VF = 1 ↔ ∃ px py, s.pixel px py = false ∧ t.pixel px py = true) ∧
      (u.reg VF = 0 ↔ ∀ px py, ¬ (s.pixel px py = false ∧ t.pixel px py = true))

/-- No draw touches a pixel twice, and so the order of the pixel updates does not matter. For every start position and every
sprite of at most 15 bytes, the list of the pixels its set bits land on holds no pixel twice, although both axes wrap; and
drawing those pixels in any other order leaves, on every display, the same display and the same collision. -/
def Obligations.SpriteTouchesNoPixelTwice : Prop :=
  ∀ (x0 y0 : Byte) (rows : List Byte), rows.length ≤ 15 →
    (spritePixels x0 y0 0 rows).Nodup ∧
    ∀ (ps : List Pixel) (d : Display) (c : Bool), ps.Perm (spritePixels x0 y0 0 rows) →
      Display.draw ps d c = Display.draw (spritePixels x0 y0 0 rows) d c

/-- FX07 reads DT, FX15 writes DT, FX18 writes ST, and nothing else changes. The words FX07, FX15, FX18 decode to the
instructions. From every state FX07 answers a next state with V[X] = DT, FX15 one with DT = V[X], FX18 one with ST = V[X],
nothing else changed, and Continue returned. -/
def Obligations.TimerInstructionsMoveTheTimers : Prop :=
  ∀ x : Reg,
    (decode (formatR 0xF x 0x07) = .ok (.ldVxDT x) ∧ decode (formatR 0xF x 0x15) = .ok (.ldDTVx x) ∧
      decode (formatR 0xF x 0x18) = .ok (.ldSTVx x)) ∧
    ∀ s : State,
      (∃ t, exec (.ldVxDT x) s = .next t ∧ t.reg x = s.dt ∧ OnlyRegisters [x] s t ∧ t.reply = some .continue) ∧
      (∃ t, exec (.ldDTVx x) s = .next t ∧ t.dt = s.reg x ∧ SameExcept [.delayTimer] s t ∧ t.reply = some .continue) ∧
      (∃ t, exec (.ldSTVx x) s = .next t ∧ t.st = s.reg x ∧ SameExcept [.soundTimer] s t ∧ t.reply = some .continue)

/-- FX0A arms and rewinds from Idle, rewinds and keeps its target while Armed, and acknowledges without rewinding when
Captured. The words FX0A decode to the instruction. From Idle it answers a next state that is Armed(X) with pc 2 less, from
Armed(t) one that is still Armed(t) with pc 2 less, from Captured(k) one that is Idle with pc as it is; no register is
written, nothing else changes, and Continue is returned. Keeping the old target while Armed is the spec's own decision D16
(log entry 17). -/
def Obligations.KeyWaitArmsWaitsAndAcknowledges : Prop :=
  ∀ x : Reg, decode (formatR 0xF x 0x0A) = .ok (.ldVxK x) ∧
    ∀ s : State,
      (s.wait = .idle → ∃ t, exec (.ldVxK x) s = .next t ∧ t.wait = .armed x ∧ t.pc = s.pc - 2 ∧
        SameExcept [.programCounter, .wait] s t ∧ t.reply = some .continue) ∧
      (∀ r, s.wait = .armed r → ∃ t, exec (.ldVxK x) s = .next t ∧ t.wait = .armed r ∧ t.pc = s.pc - 2 ∧
        SameExcept [.programCounter] s t ∧ t.reply = some .continue) ∧
      (∀ k, s.wait = .captured k → ∃ t, exec (.ldVxK x) s = .next t ∧ t.wait = .idle ∧
        SameExcept [.wait] s t ∧ t.reply = some .continue)

/-- tick_timers lowers each timer by one, never below zero, and changes and returns nothing else. From every state tick_timers
gives a state with DT and ST one less or 0 if they were 0, every other part unchanged, and nothing returned. -/
def Obligations.TickDecrementsTowardZero : Prop :=
  ∀ s : State, ∃ t, transact .tickTimers s = .next t ∧ t.dt.toNat = s.dt.toNat - 1 ∧ t.st.toNat = s.st.toNat - 1 ∧
    SameExcept [.delayTimer, .soundTimer] s t ∧ t.reply = none

/-- After n ticks each timer is its value less n, and 0 from then on. For every n and every state, n ticks in a row give a
state with DT and ST lowered by n, or 0 if they were at most n, and every other part unchanged. -/
def Obligations.TimersRunOutAfterTheirValueInTicks : Prop :=
  ∀ (n : Nat) (s : State), ∃ t, transactAll (List.replicate n .tickTimers) s = .next t ∧
    t.dt.toNat = s.dt.toNat - n ∧ t.st.toNat = s.st.toNat - n ∧ SameExcept [.delayTimer, .soundTimer] s t

/-- set_key sets its key, and captures exactly if it is a press transition while a wait is armed. For every key, value and
state set_key gives a state in which that key alone has the new value. If the wait is Armed(r), the value is pressed and the
key was not, then V[r] is the key's number, no other register changes and the wait is Captured(k). Otherwise no register
changes and the wait stays. Nothing else changes and nothing is returned. What counts as a press is the spec's own decision
D17 (log entry 18). -/
def Obligations.PressCapturesOnlyWhileArmed : Prop :=
  ∀ (k : KeyIndex) (p : Bool) (s : State), ∃ t, transact (.setKey k.val p) s = .next t ∧
    (∀ j, t.key j = if j = k then p else s.key j) ∧
    (∀ r, s.wait = .armed r → p = true → s.key k = false →
      t.wait = .captured k ∧ (t.reg r).toNat = k.val ∧ ∀ r', r' ≠ r → t.reg r' = s.reg r') ∧
    ((p = false ∨ s.key k = true ∨ ∀ r, s.wait ≠ .armed r) → t.wait = s.wait ∧ ∀ r, t.reg r = s.reg r) ∧
    SameExcept [.registers, .keypad, .wait] s t ∧ t.reply = none

/-- set_key with an index above 15 is refused, and it is the only transaction that is. set_key with an index of 16 or more is
refused by name, and every other transaction gives a next state: no transaction faults. That the index is outside the
interface is the spec's own decision D24 (log entry 23). -/
def Obligations.KeyIndexAboveFifteenIsRefused : Prop :=
  (∀ (k : Nat) (p : Bool) (s : State), 16 ≤ k → transact (.setKey k p) s = .refused (.keyIndexOutOfRange k)) ∧
    ∀ (a : Transaction) (s : State), (∀ k p, a = .setKey k p → k < 16) → ∃ t, transact a s = .next t

/-- load copies a blob of at most 3584 bytes from 0x200 on and changes nothing else; a longer one is a LoadError and changes
nothing. From every state with canonical memory: a blob of at most 3584 bytes gives a state whose byte at 0x200 + k is the
blob's k-th, with every byte outside and every other part unchanged, and Ok returned; a longer blob gives LoadError and
changes nothing. That load has no other effect is the spec's own decision D20 (log entry 21). -/
def Obligations.LoadCopiesTheBlobOrNothing : Prop :=
  ∀ (bytes : List Byte) (s : State), s.MemoryCanonical →
    (bytes.length ≤ 3584 → ∃ t, transact (.load bytes) s = .next t ∧ t.reply = some .loadOk ∧
      (∀ k, ∀ h : k < bytes.length, t.memRead (0x200 + k) = bytes[k]) ∧
      (∀ a, a % 4096 < 0x200 ∨ 0x200 + bytes.length ≤ a % 4096 → t.memRead a = s.memRead a) ∧
      SameExcept [.memory] s t) ∧
    (3584 < bytes.length → ∃ t, transact (.load bytes) s = .next t ∧ t.reply = some .loadError ∧ SameExcept [] s t)

/-- After a reset the glyph region holds FONT_DATA whatever was written there. From every state with canonical memory reset
gives a state in which the 80 bytes from FONT_BASE on are FONT_DATA. -/
def Obligations.ResetReinstallsTheGlyphs : Prop :=
  ∀ s : State, s.MemoryCanonical → ∃ t, transact .reset s = .next t ∧
    ∀ k, ∀ h : k < 80, t.memRead (Params.fontBase + k) = Params.fontData[k]

/-- reset clears registers, I, stack, timers and wait, sets pc to 0x200, and keeps the display, the keys and memory outside
the glyphs. From every state with canonical memory reset gives a state with every register 0, I = 0, pc = 0x200, SP = 0, every
stack entry 0, DT = ST = 0, Wait = Idle and nothing returned, in which every byte outside the glyph region, every pixel, every
key and the count of random bytes taken are as before. I, Wait and keeping the display, the keys and memory outside the glyphs
are the spec's own decision D19 (log entry 20). That reset leaves the count of random bytes taken is the model's choice (log
entry 3, DESIGN CHOICE). -/
def Obligations.ResetValuesAndWhatItKeeps : Prop :=
  ∀ s : State, s.MemoryCanonical → ∃ t, transact .reset s = .next t ∧
    (∀ r, t.reg r = 0) ∧ t.i = 0 ∧ t.pc = 0x200 ∧ t.sp.val = 0 ∧ (∀ k, ∀ h : k < 16, t.stack[k] = 0) ∧
    t.dt = 0 ∧ t.st = 0 ∧ t.wait = .idle ∧ t.reply = none ∧
    (∀ a, a % 4096 < Params.fontBase ∨ Params.fontBase + 80 ≤ a % 4096 → t.memRead a = s.memRead a) ∧
    Part.Same s t .display ∧ Part.Same s t .keypad ∧ Part.Same s t .random

/-- The constructed machine is zero but for pc = 0x200 and the glyph set, and a reset made at once leaves it as it is.
State.reset has every register, I, SP, stack entry and timer 0, every pixel unset, every key unpressed, Wait = Idle, pc =
0x200, FONT_DATA at FONT_BASE and 0 in every other byte, and reset maps it to itself. pc, the keys and Wait are the spec's own
decision D18 (log entry 19). -/
def Obligations.ConstructedMachine : Prop :=
  (∀ r, State.reset.reg r = 0) ∧ State.reset.i = 0 ∧ State.reset.pc = 0x200 ∧ State.reset.sp.val = 0 ∧
    (∀ k, ∀ h : k < 16, State.reset.stack[k] = 0) ∧ State.reset.dt = 0 ∧ State.reset.st = 0 ∧
    (∀ x y, State.reset.pixel x y = false) ∧ (∀ k, State.reset.key k = false) ∧ State.reset.wait = .idle ∧
    (∀ k, ∀ h : k < 80, State.reset.memRead (Params.fontBase + k) = Params.fontData[k]) ∧
    (∀ a, a % 4096 < Params.fontBase ∨ Params.fontBase + 80 ≤ a % 4096 → State.reset.memRead a = 0) ∧
    transact .reset State.reset = .next State.reset

/-- The reads of the pixel grid and of the sound timer return them and change no state. From every state each read gives a
state in which nothing changed, and returns the grid with every pixel as it is, respectively ST. -/
def Obligations.ReadsChangeNothing : Prop :=
  ∀ s : State,
    (∃ t d, transact .readPixels s = .next t ∧ t.reply = some (.pixels d) ∧
      (∀ x y, Display.pixel d (x, y) = s.pixel x y) ∧ SameExcept [] s t) ∧
    (∃ t, transact .readSoundTimer s = .next t ∧ t.reply = some (.soundTimer s.st) ∧ SameExcept [] s t)

/-- Two memories in canonical form that read the same at all 4096 addresses are the same data. The model's list of cells is a
faithful picture of the 4096-byte array: in canonical form, equal contents are equal lists. -/
def Obligations.CanonicalMemoriesThatReadAlikeAreEqual : Prop :=
  ∀ m n : Memory, m.wf → n.wf → (∀ a < 4096, m.read a = n.read a) → m = n

/-- Every step keeps memory canonical and the pending wait at its own FX0A. From every state in which memory is canonical and,
while a wait is Armed(t) or Captured(k), the word at pc is the FX0A of the register that waits (and that register holds the
captured key), a step leads to such a state again: while a program waits, only its FX0A executes. -/
def Obligations.StepKeepsTheInvariant : Prop :=
  ∀ s t : State, s.Inv → step s = .next t → t.Inv

/-- The constructed machine meets the invariant. State.reset has canonical memory and no wait under way. -/
def Obligations.ResetMeetsTheInvariant : Prop :=
  State.reset.Inv

/-- Every transaction keeps memory canonical, and all but load keep the pending wait at its own FX0A. From every state with
the invariant, every transaction that gives a next state keeps memory canonical, and every one but load, which may overwrite
the waiting instruction, keeps the whole invariant. -/
def Obligations.TransactionsKeepTheInvariant : Prop :=
  ∀ (a : Transaction) (s t : State), s.Inv → transact a s = .next t →
    t.MemoryCanonical ∧ ((∀ bytes, a ≠ .load bytes) → t.Inv)

/-- A wait holds for any number of steps, a press puts the key in the target register, and one more step goes on behind it.
Where FX0A stands at pc, no wait is under way and key k is not pressed: after any positive number of steps pc is the same, the
wait is armed for X and nothing else changed; then set_key(k, pressed) puts k in V[X]; then one step returns Continue with pc
advanced by 2, the wait over and k still in V[X]. That V[X] holds k right after set_key is the spec's resolution of its
conflict C4 (log entry 31), that the armed wait keeps its target is its decision D16 (log entry 17), and that this press
captures is its decision D17 (log entry 18). -/
def Obligations.KeyWaitHandshakeCompletes : Prop :=
  ∀ (s : State) (x : Reg) (k : KeyIndex) (n : Nat),
    decode s.fetchWord = .ok (.ldVxK x) → s.wait = .idle → s.key k = false →
      ∃ t u v, transactAll (List.replicate (n + 1) .step) s = .next t ∧ t.wait = .armed x ∧ SameExcept [.wait] s t ∧
        transact (.setKey k.val true) t = .next u ∧ u.wait = .captured k ∧ u.pc = s.pc ∧ (u.reg x).toNat = k.val ∧
        transact .step u = .next v ∧ v.wait = .idle ∧ v.pc = s.pc + 2 ∧ (v.reg x).toNat = k.val ∧
        v.reply = some .continue

/-- No step reads ST: two states that differ in ST alone step to states that differ in ST at most, with the same reply. If s
steps to t, then s with any other ST steps to a state with the same reply that differs from t in ST at most. -/
def Obligations.SoundTimerIsNeverRead : Prop :=
  ∀ (s t : State) (b : Byte), step s = .next t →
    ∃ u, step { s with st := b } = .next u ∧ u.reply = t.reply ∧ SameExcept [.soundTimer] t u

/-- An instruction stored at pc by withFetchWord is exactly the one the next step fetches and runs. For every state with
canonical memory and every well-formed instruction, the state with its word placed where the step fetches differs in memory at
pc and pc + 1 alone, and its step is exec of that instruction with pc advanced. The byte order is the spec's own decision D1
(log entry 4). -/
def Obligations.PlacedInstructionIsTheOneThatRuns : Prop :=
  ∀ (s : State) (i : Instr), s.MemoryCanonical → i.wellFormed = true →
    SameExcept [.memory] s (s.withFetchWord 16 (encode i).toNat) ∧
    (∀ a, a % 4096 ≠ s.pc.toNat → a % 4096 ≠ (s.pc.toNat + 1) % 4096 →
      (s.withFetchWord 16 (encode i).toNat).memRead a = s.memRead a) ∧
    step (s.withFetchWord 16 (encode i).toNat) = exec i (s.withFetchWord 16 (encode i).toNat).advancePc
end

