-- ==== Sys2Proof/Laws/Params.lean ====
section
/-! SUPPORT. The values of the parameters as rewriting rules, and what the spec asks of the font. -/

namespace Sys2Proof.Machine.Params

@[simp] theorem byteOrder_eq : byteOrder = .big := rfl
@[simp] theorem shlFlag_eq : shlFlag = .raw := rfl
@[simp] theorem ldstIncrementsI_eq : ldstIncrementsI = false := rfl
@[simp] theorem noOverflowVF_eq : noOverflowVF = .unchanged := rfl
@[simp] theorem failedStepPc_eq : failedStepPc = .advanced := rfl
@[simp] theorem class0Match_eq : class0Match = .lowByte := rfl
@[simp] theorem resetClearsDisplay_eq : resetClearsDisplay = false := rfl
@[simp] theorem resetClearsWait_eq : resetClearsWait = true := rfl

/-- The font has its 80 bytes (R36). -/
@[simp] theorem fontData_length : fontData.length = 80 := rfl

/-- The glyph region lies below the entry point (R8, FONT_BASE). -/
theorem font_below_entry : fontBase + Config.fontSize ≤ Config.entry := by decide

end Sys2Proof.Machine.Params
end

