-- ==== Sys2Proof/Laws/State.lean ====
section
/-! SUPPORT. One lemma per field per update of the state, true by rfl, so that no later proof unfolds a record update; and what the
accessors read after an update. -/

namespace Sys2Proof.Machine

variable (s : State)

/-! ### setReg -/

@[simp] theorem State.setReg_v (x : Reg) (b : Byte) : (s.setReg x b).v = s.v.set x b := rfl
@[simp] theorem State.setReg_i (x : Reg) (b : Byte) : (s.setReg x b).i = s.i := rfl
@[simp] theorem State.setReg_pc (x : Reg) (b : Byte) : (s.setReg x b).pc = s.pc := rfl
@[simp] theorem State.setReg_stack (x : Reg) (b : Byte) : (s.setReg x b).stack = s.stack := rfl
@[simp] theorem State.setReg_sp (x : Reg) (b : Byte) : (s.setReg x b).sp = s.sp := rfl
@[simp] theorem State.setReg_dt (x : Reg) (b : Byte) : (s.setReg x b).dt = s.dt := rfl
@[simp] theorem State.setReg_st (x : Reg) (b : Byte) : (s.setReg x b).st = s.st := rfl
@[simp] theorem State.setReg_display (x : Reg) (b : Byte) : (s.setReg x b).display = s.display := rfl
@[simp] theorem State.setReg_keys (x : Reg) (b : Byte) : (s.setReg x b).keys = s.keys := rfl
@[simp] theorem State.setReg_wait (x : Reg) (b : Byte) : (s.setReg x b).wait = s.wait := rfl
@[simp] theorem State.setReg_mem (x : Reg) (b : Byte) : (s.setReg x b).mem = s.mem := rfl
@[simp] theorem State.setReg_randomIndex (x : Reg) (b : Byte) : (s.setReg x b).randomIndex = s.randomIndex := rfl
@[simp] theorem State.setReg_reply (x : Reg) (b : Byte) : (s.setReg x b).reply = s.reply := rfl

/-! ### setI -/

@[simp] theorem State.setI_v (a : Word) : (s.setI a).v = s.v := rfl
@[simp] theorem State.setI_i (a : Word) : (s.setI a).i = a := rfl
@[simp] theorem State.setI_pc (a : Word) : (s.setI a).pc = s.pc := rfl
@[simp] theorem State.setI_stack (a : Word) : (s.setI a).stack = s.stack := rfl
@[simp] theorem State.setI_sp (a : Word) : (s.setI a).sp = s.sp := rfl
@[simp] theorem State.setI_dt (a : Word) : (s.setI a).dt = s.dt := rfl
@[simp] theorem State.setI_st (a : Word) : (s.setI a).st = s.st := rfl
@[simp] theorem State.setI_display (a : Word) : (s.setI a).display = s.display := rfl
@[simp] theorem State.setI_keys (a : Word) : (s.setI a).keys = s.keys := rfl
@[simp] theorem State.setI_wait (a : Word) : (s.setI a).wait = s.wait := rfl
@[simp] theorem State.setI_mem (a : Word) : (s.setI a).mem = s.mem := rfl
@[simp] theorem State.setI_randomIndex (a : Word) : (s.setI a).randomIndex = s.randomIndex := rfl
@[simp] theorem State.setI_reply (a : Word) : (s.setI a).reply = s.reply := rfl

/-! ### setPc -/

@[simp] theorem State.setPc_v (a : Addr) : (s.setPc a).v = s.v := rfl
@[simp] theorem State.setPc_i (a : Addr) : (s.setPc a).i = s.i := rfl
@[simp] theorem State.setPc_pc (a : Addr) : (s.setPc a).pc = a := rfl
@[simp] theorem State.setPc_stack (a : Addr) : (s.setPc a).stack = s.stack := rfl
@[simp] theorem State.setPc_sp (a : Addr) : (s.setPc a).sp = s.sp := rfl
@[simp] theorem State.setPc_dt (a : Addr) : (s.setPc a).dt = s.dt := rfl
@[simp] theorem State.setPc_st (a : Addr) : (s.setPc a).st = s.st := rfl
@[simp] theorem State.setPc_display (a : Addr) : (s.setPc a).display = s.display := rfl
@[simp] theorem State.setPc_keys (a : Addr) : (s.setPc a).keys = s.keys := rfl
@[simp] theorem State.setPc_wait (a : Addr) : (s.setPc a).wait = s.wait := rfl
@[simp] theorem State.setPc_mem (a : Addr) : (s.setPc a).mem = s.mem := rfl
@[simp] theorem State.setPc_randomIndex (a : Addr) : (s.setPc a).randomIndex = s.randomIndex := rfl
@[simp] theorem State.setPc_reply (a : Addr) : (s.setPc a).reply = s.reply := rfl

/-! ### advancePc -/

@[simp] theorem State.advancePc_v : s.advancePc.v = s.v := rfl
@[simp] theorem State.advancePc_i : s.advancePc.i = s.i := rfl
@[simp] theorem State.advancePc_pc : s.advancePc.pc = s.pc + 2 := rfl
@[simp] theorem State.advancePc_stack : s.advancePc.stack = s.stack := rfl
@[simp] theorem State.advancePc_sp : s.advancePc.sp = s.sp := rfl
@[simp] theorem State.advancePc_dt : s.advancePc.dt = s.dt := rfl
@[simp] theorem State.advancePc_st : s.advancePc.st = s.st := rfl
@[simp] theorem State.advancePc_display : s.advancePc.display = s.display := rfl
@[simp] theorem State.advancePc_keys : s.advancePc.keys = s.keys := rfl
@[simp] theorem State.advancePc_wait : s.advancePc.wait = s.wait := rfl
@[simp] theorem State.advancePc_mem : s.advancePc.mem = s.mem := rfl
@[simp] theorem State.advancePc_randomIndex : s.advancePc.randomIndex = s.randomIndex := rfl
@[simp] theorem State.advancePc_reply : s.advancePc.reply = s.reply := rfl

/-! ### rewindPc -/

@[simp] theorem State.rewindPc_v : s.rewindPc.v = s.v := rfl
@[simp] theorem State.rewindPc_i : s.rewindPc.i = s.i := rfl
@[simp] theorem State.rewindPc_pc : s.rewindPc.pc = s.pc - 2 := rfl
@[simp] theorem State.rewindPc_stack : s.rewindPc.stack = s.stack := rfl
@[simp] theorem State.rewindPc_sp : s.rewindPc.sp = s.sp := rfl
@[simp] theorem State.rewindPc_dt : s.rewindPc.dt = s.dt := rfl
@[simp] theorem State.rewindPc_st : s.rewindPc.st = s.st := rfl
@[simp] theorem State.rewindPc_display : s.rewindPc.display = s.display := rfl
@[simp] theorem State.rewindPc_keys : s.rewindPc.keys = s.keys := rfl
@[simp] theorem State.rewindPc_wait : s.rewindPc.wait = s.wait := rfl
@[simp] theorem State.rewindPc_mem : s.rewindPc.mem = s.mem := rfl
@[simp] theorem State.rewindPc_randomIndex : s.rewindPc.randomIndex = s.randomIndex := rfl
@[simp] theorem State.rewindPc_reply : s.rewindPc.reply = s.reply := rfl

/-! ### memWrite -/

@[simp] theorem State.memWrite_v (a : Nat) (b : Byte) : (s.memWrite a b).v = s.v := rfl
@[simp] theorem State.memWrite_i (a : Nat) (b : Byte) : (s.memWrite a b).i = s.i := rfl
@[simp] theorem State.memWrite_pc (a : Nat) (b : Byte) : (s.memWrite a b).pc = s.pc := rfl
@[simp] theorem State.memWrite_stack (a : Nat) (b : Byte) : (s.memWrite a b).stack = s.stack := rfl
@[simp] theorem State.memWrite_sp (a : Nat) (b : Byte) : (s.memWrite a b).sp = s.sp := rfl
@[simp] theorem State.memWrite_dt (a : Nat) (b : Byte) : (s.memWrite a b).dt = s.dt := rfl
@[simp] theorem State.memWrite_st (a : Nat) (b : Byte) : (s.memWrite a b).st = s.st := rfl
@[simp] theorem State.memWrite_display (a : Nat) (b : Byte) : (s.memWrite a b).display = s.display := rfl
@[simp] theorem State.memWrite_keys (a : Nat) (b : Byte) : (s.memWrite a b).keys = s.keys := rfl
@[simp] theorem State.memWrite_wait (a : Nat) (b : Byte) : (s.memWrite a b).wait = s.wait := rfl
@[simp] theorem State.memWrite_mem (a : Nat) (b : Byte) : (s.memWrite a b).mem = s.mem.write (a % Config.memSize) b := rfl
@[simp] theorem State.memWrite_randomIndex (a : Nat) (b : Byte) : (s.memWrite a b).randomIndex = s.randomIndex := rfl
@[simp] theorem State.memWrite_reply (a : Nat) (b : Byte) : (s.memWrite a b).reply = s.reply := rfl

/-! ### setKey -/

@[simp] theorem State.setKey_v (k : KeyIndex) (p : Bool) : (s.setKey k p).v = s.v := rfl
@[simp] theorem State.setKey_i (k : KeyIndex) (p : Bool) : (s.setKey k p).i = s.i := rfl
@[simp] theorem State.setKey_pc (k : KeyIndex) (p : Bool) : (s.setKey k p).pc = s.pc := rfl
@[simp] theorem State.setKey_stack (k : KeyIndex) (p : Bool) : (s.setKey k p).stack = s.stack := rfl
@[simp] theorem State.setKey_sp (k : KeyIndex) (p : Bool) : (s.setKey k p).sp = s.sp := rfl
@[simp] theorem State.setKey_dt (k : KeyIndex) (p : Bool) : (s.setKey k p).dt = s.dt := rfl
@[simp] theorem State.setKey_st (k : KeyIndex) (p : Bool) : (s.setKey k p).st = s.st := rfl
@[simp] theorem State.setKey_display (k : KeyIndex) (p : Bool) : (s.setKey k p).display = s.display := rfl
@[simp] theorem State.setKey_keys (k : KeyIndex) (p : Bool) : (s.setKey k p).keys = s.keys.set k p := rfl
@[simp] theorem State.setKey_wait (k : KeyIndex) (p : Bool) : (s.setKey k p).wait = s.wait := rfl
@[simp] theorem State.setKey_mem (k : KeyIndex) (p : Bool) : (s.setKey k p).mem = s.mem := rfl
@[simp] theorem State.setKey_randomIndex (k : KeyIndex) (p : Bool) : (s.setKey k p).randomIndex = s.randomIndex := rfl
@[simp] theorem State.setKey_reply (k : KeyIndex) (p : Bool) : (s.setKey k p).reply = s.reply := rfl

/-! ### setWait -/

@[simp] theorem State.setWait_v (w : WaitState) : (s.setWait w).v = s.v := rfl
@[simp] theorem State.setWait_i (w : WaitState) : (s.setWait w).i = s.i := rfl
@[simp] theorem State.setWait_pc (w : WaitState) : (s.setWait w).pc = s.pc := rfl
@[simp] theorem State.setWait_stack (w : WaitState) : (s.setWait w).stack = s.stack := rfl
@[simp] theorem State.setWait_sp (w : WaitState) : (s.setWait w).sp = s.sp := rfl
@[simp] theorem State.setWait_dt (w : WaitState) : (s.setWait w).dt = s.dt := rfl
@[simp] theorem State.setWait_st (w : WaitState) : (s.setWait w).st = s.st := rfl
@[simp] theorem State.setWait_display (w : WaitState) : (s.setWait w).display = s.display := rfl
@[simp] theorem State.setWait_keys (w : WaitState) : (s.setWait w).keys = s.keys := rfl
@[simp] theorem State.setWait_wait (w : WaitState) : (s.setWait w).wait = w := rfl
@[simp] theorem State.setWait_mem (w : WaitState) : (s.setWait w).mem = s.mem := rfl
@[simp] theorem State.setWait_randomIndex (w : WaitState) : (s.setWait w).randomIndex = s.randomIndex := rfl
@[simp] theorem State.setWait_reply (w : WaitState) : (s.setWait w).reply = s.reply := rfl

/-! ### takeRandom -/

@[simp] theorem State.takeRandom_v : s.takeRandom.v = s.v := rfl
@[simp] theorem State.takeRandom_i : s.takeRandom.i = s.i := rfl
@[simp] theorem State.takeRandom_pc : s.takeRandom.pc = s.pc := rfl
@[simp] theorem State.takeRandom_stack : s.takeRandom.stack = s.stack := rfl
@[simp] theorem State.takeRandom_sp : s.takeRandom.sp = s.sp := rfl
@[simp] theorem State.takeRandom_dt : s.takeRandom.dt = s.dt := rfl
@[simp] theorem State.takeRandom_st : s.takeRandom.st = s.st := rfl
@[simp] theorem State.takeRandom_display : s.takeRandom.display = s.display := rfl
@[simp] theorem State.takeRandom_keys : s.takeRandom.keys = s.keys := rfl
@[simp] theorem State.takeRandom_wait : s.takeRandom.wait = s.wait := rfl
@[simp] theorem State.takeRandom_mem : s.takeRandom.mem = s.mem := rfl
@[simp] theorem State.takeRandom_randomIndex : s.takeRandom.randomIndex = s.randomIndex + 1 := rfl
@[simp] theorem State.takeRandom_reply : s.takeRandom.reply = s.reply := rfl

/-! ### returning -/

@[simp] theorem State.returning_v (r : Reply) : (s.returning r).v = s.v := rfl
@[simp] theorem State.returning_i (r : Reply) : (s.returning r).i = s.i := rfl
@[simp] theorem State.returning_pc (r : Reply) : (s.returning r).pc = s.pc := rfl
@[simp] theorem State.returning_stack (r : Reply) : (s.returning r).stack = s.stack := rfl
@[simp] theorem State.returning_sp (r : Reply) : (s.returning r).sp = s.sp := rfl
@[simp] theorem State.returning_dt (r : Reply) : (s.returning r).dt = s.dt := rfl
@[simp] theorem State.returning_st (r : Reply) : (s.returning r).st = s.st := rfl
@[simp] theorem State.returning_display (r : Reply) : (s.returning r).display = s.display := rfl
@[simp] theorem State.returning_keys (r : Reply) : (s.returning r).keys = s.keys := rfl
@[simp] theorem State.returning_wait (r : Reply) : (s.returning r).wait = s.wait := rfl
@[simp] theorem State.returning_mem (r : Reply) : (s.returning r).mem = s.mem := rfl
@[simp] theorem State.returning_randomIndex (r : Reply) : (s.returning r).randomIndex = s.randomIndex := rfl
@[simp] theorem State.returning_reply (r : Reply) : (s.returning r).reply = some r := rfl

/-! ### returningNothing -/

@[simp] theorem State.returningNothing_v : s.returningNothing.v = s.v := rfl
@[simp] theorem State.returningNothing_i : s.returningNothing.i = s.i := rfl
@[simp] theorem State.returningNothing_pc : s.returningNothing.pc = s.pc := rfl
@[simp] theorem State.returningNothing_stack : s.returningNothing.stack = s.stack := rfl
@[simp] theorem State.returningNothing_sp : s.returningNothing.sp = s.sp := rfl
@[simp] theorem State.returningNothing_dt : s.returningNothing.dt = s.dt := rfl
@[simp] theorem State.returningNothing_st : s.returningNothing.st = s.st := rfl
@[simp] theorem State.returningNothing_display : s.returningNothing.display = s.display := rfl
@[simp] theorem State.returningNothing_keys : s.returningNothing.keys = s.keys := rfl
@[simp] theorem State.returningNothing_wait : s.returningNothing.wait = s.wait := rfl
@[simp] theorem State.returningNothing_mem : s.returningNothing.mem = s.mem := rfl
@[simp] theorem State.returningNothing_randomIndex : s.returningNothing.randomIndex = s.randomIndex := rfl
@[simp] theorem State.returningNothing_reply : s.returningNothing.reply = none := rfl

/-! ### setResultAndFlag -/

@[simp] theorem State.setResultAndFlag_v (x : Reg) (a f : Byte) : (s.setResultAndFlag x a f).v = (s.v.set x a).set VF f := rfl
@[simp] theorem State.setResultAndFlag_i (x : Reg) (a f : Byte) : (s.setResultAndFlag x a f).i = s.i := rfl
@[simp] theorem State.setResultAndFlag_pc (x : Reg) (a f : Byte) : (s.setResultAndFlag x a f).pc = s.pc := rfl
@[simp] theorem State.setResultAndFlag_stack (x : Reg) (a f : Byte) : (s.setResultAndFlag x a f).stack = s.stack := rfl
@[simp] theorem State.setResultAndFlag_sp (x : Reg) (a f : Byte) : (s.setResultAndFlag x a f).sp = s.sp := rfl
@[simp] theorem State.setResultAndFlag_dt (x : Reg) (a f : Byte) : (s.setResultAndFlag x a f).dt = s.dt := rfl
@[simp] theorem State.setResultAndFlag_st (x : Reg) (a f : Byte) : (s.setResultAndFlag x a f).st = s.st := rfl
@[simp] theorem State.setResultAndFlag_display (x : Reg) (a f : Byte) : (s.setResultAndFlag x a f).display = s.display := rfl
@[simp] theorem State.setResultAndFlag_keys (x : Reg) (a f : Byte) : (s.setResultAndFlag x a f).keys = s.keys := rfl
@[simp] theorem State.setResultAndFlag_wait (x : Reg) (a f : Byte) : (s.setResultAndFlag x a f).wait = s.wait := rfl
@[simp] theorem State.setResultAndFlag_mem (x : Reg) (a f : Byte) : (s.setResultAndFlag x a f).mem = s.mem := rfl
@[simp] theorem State.setResultAndFlag_randomIndex (x : Reg) (a f : Byte) : (s.setResultAndFlag x a f).randomIndex = s.randomIndex := rfl
@[simp] theorem State.setResultAndFlag_reply (x : Reg) (a f : Byte) : (s.setResultAndFlag x a f).reply = s.reply := rfl

/-! ### loadRegs -/

@[simp] theorem State.loadRegs_v (x : Reg) (a : Nat) : (s.loadRegs x a).v = Vector.ofFn fun r : Fin 16 => if r ≤ x then s.memRead (a + r.val) else s.reg r := rfl
@[simp] theorem State.loadRegs_i (x : Reg) (a : Nat) : (s.loadRegs x a).i = s.i := rfl
@[simp] theorem State.loadRegs_pc (x : Reg) (a : Nat) : (s.loadRegs x a).pc = s.pc := rfl
@[simp] theorem State.loadRegs_stack (x : Reg) (a : Nat) : (s.loadRegs x a).stack = s.stack := rfl
@[simp] theorem State.loadRegs_sp (x : Reg) (a : Nat) : (s.loadRegs x a).sp = s.sp := rfl
@[simp] theorem State.loadRegs_dt (x : Reg) (a : Nat) : (s.loadRegs x a).dt = s.dt := rfl
@[simp] theorem State.loadRegs_st (x : Reg) (a : Nat) : (s.loadRegs x a).st = s.st := rfl
@[simp] theorem State.loadRegs_display (x : Reg) (a : Nat) : (s.loadRegs x a).display = s.display := rfl
@[simp] theorem State.loadRegs_keys (x : Reg) (a : Nat) : (s.loadRegs x a).keys = s.keys := rfl
@[simp] theorem State.loadRegs_wait (x : Reg) (a : Nat) : (s.loadRegs x a).wait = s.wait := rfl
@[simp] theorem State.loadRegs_mem (x : Reg) (a : Nat) : (s.loadRegs x a).mem = s.mem := rfl
@[simp] theorem State.loadRegs_randomIndex (x : Reg) (a : Nat) : (s.loadRegs x a).randomIndex = s.randomIndex := rfl
@[simp] theorem State.loadRegs_reply (x : Reg) (a : Nat) : (s.loadRegs x a).reply = s.reply := rfl

/-! ### Host transactions -/

@[simp] theorem tickTimers_v : (tickTimers s).v = s.v := rfl
@[simp] theorem tickTimers_i : (tickTimers s).i = s.i := rfl
@[simp] theorem tickTimers_pc : (tickTimers s).pc = s.pc := rfl
@[simp] theorem tickTimers_stack : (tickTimers s).stack = s.stack := rfl
@[simp] theorem tickTimers_sp : (tickTimers s).sp = s.sp := rfl
@[simp] theorem tickTimers_dt : (tickTimers s).dt = tickDown s.dt := rfl
@[simp] theorem tickTimers_st : (tickTimers s).st = tickDown s.st := rfl
@[simp] theorem tickTimers_display : (tickTimers s).display = s.display := rfl
@[simp] theorem tickTimers_keys : (tickTimers s).keys = s.keys := rfl
@[simp] theorem tickTimers_wait : (tickTimers s).wait = s.wait := rfl
@[simp] theorem tickTimers_mem : (tickTimers s).mem = s.mem := rfl
@[simp] theorem tickTimers_randomIndex : (tickTimers s).randomIndex = s.randomIndex := rfl
@[simp] theorem tickTimers_reply : (tickTimers s).reply = none := rfl

@[simp] theorem readPixels_v : (readPixels s).v = s.v := rfl
@[simp] theorem readPixels_i : (readPixels s).i = s.i := rfl
@[simp] theorem readPixels_pc : (readPixels s).pc = s.pc := rfl
@[simp] theorem readPixels_stack : (readPixels s).stack = s.stack := rfl
@[simp] theorem readPixels_sp : (readPixels s).sp = s.sp := rfl
@[simp] theorem readPixels_dt : (readPixels s).dt = s.dt := rfl
@[simp] theorem readPixels_st : (readPixels s).st = s.st := rfl
@[simp] theorem readPixels_display : (readPixels s).display = s.display := rfl
@[simp] theorem readPixels_keys : (readPixels s).keys = s.keys := rfl
@[simp] theorem readPixels_wait : (readPixels s).wait = s.wait := rfl
@[simp] theorem readPixels_mem : (readPixels s).mem = s.mem := rfl
@[simp] theorem readPixels_randomIndex : (readPixels s).randomIndex = s.randomIndex := rfl
@[simp] theorem readPixels_reply : (readPixels s).reply = some (.pixels s.display) := rfl

@[simp] theorem readSoundTimer_v : (readSoundTimer s).v = s.v := rfl
@[simp] theorem readSoundTimer_i : (readSoundTimer s).i = s.i := rfl
@[simp] theorem readSoundTimer_pc : (readSoundTimer s).pc = s.pc := rfl
@[simp] theorem readSoundTimer_stack : (readSoundTimer s).stack = s.stack := rfl
@[simp] theorem readSoundTimer_sp : (readSoundTimer s).sp = s.sp := rfl
@[simp] theorem readSoundTimer_dt : (readSoundTimer s).dt = s.dt := rfl
@[simp] theorem readSoundTimer_st : (readSoundTimer s).st = s.st := rfl
@[simp] theorem readSoundTimer_display : (readSoundTimer s).display = s.display := rfl
@[simp] theorem readSoundTimer_keys : (readSoundTimer s).keys = s.keys := rfl
@[simp] theorem readSoundTimer_wait : (readSoundTimer s).wait = s.wait := rfl
@[simp] theorem readSoundTimer_mem : (readSoundTimer s).mem = s.mem := rfl
@[simp] theorem readSoundTimer_randomIndex : (readSoundTimer s).randomIndex = s.randomIndex := rfl
@[simp] theorem readSoundTimer_reply : (readSoundTimer s).reply = some (.soundTimer s.st) := rfl

@[simp] theorem resetMachine_v : (resetMachine s).v = Vector.replicate 16 0 := by simp [resetMachine]
@[simp] theorem resetMachine_i : (resetMachine s).i = 0 := by simp [resetMachine]
@[simp] theorem resetMachine_pc : (resetMachine s).pc = 0x200 := by simp [resetMachine]
@[simp] theorem resetMachine_stack : (resetMachine s).stack = Vector.replicate 16 0 := by simp [resetMachine]
@[simp] theorem resetMachine_sp : (resetMachine s).sp = 0 := by simp [resetMachine]
@[simp] theorem resetMachine_dt : (resetMachine s).dt = 0 := by simp [resetMachine]
@[simp] theorem resetMachine_st : (resetMachine s).st = 0 := by simp [resetMachine]
@[simp] theorem resetMachine_wait : (resetMachine s).wait = .idle := by simp [resetMachine, Params.resetClearsWait]
@[simp] theorem resetMachine_mem : (resetMachine s).mem = (s.writeBytes Params.fontBase Params.fontData).mem := by simp [resetMachine]
@[simp] theorem resetMachine_reply : (resetMachine s).reply = none := by simp [resetMachine]

/-! ### skipIf -/

@[simp] theorem State.skipIf_v (c : Bool) : (s.skipIf c).v = s.v := by cases c <;> rfl
@[simp] theorem State.skipIf_i (c : Bool) : (s.skipIf c).i = s.i := by cases c <;> rfl
@[simp] theorem State.skipIf_pc (c : Bool) : (s.skipIf c).pc = if c then s.pc + 2 else s.pc := by cases c <;> rfl
@[simp] theorem State.skipIf_stack (c : Bool) : (s.skipIf c).stack = s.stack := by cases c <;> rfl
@[simp] theorem State.skipIf_sp (c : Bool) : (s.skipIf c).sp = s.sp := by cases c <;> rfl
@[simp] theorem State.skipIf_dt (c : Bool) : (s.skipIf c).dt = s.dt := by cases c <;> rfl
@[simp] theorem State.skipIf_st (c : Bool) : (s.skipIf c).st = s.st := by cases c <;> rfl
@[simp] theorem State.skipIf_display (c : Bool) : (s.skipIf c).display = s.display := by cases c <;> rfl
@[simp] theorem State.skipIf_keys (c : Bool) : (s.skipIf c).keys = s.keys := by cases c <;> rfl
@[simp] theorem State.skipIf_wait (c : Bool) : (s.skipIf c).wait = s.wait := by cases c <;> rfl
@[simp] theorem State.skipIf_mem (c : Bool) : (s.skipIf c).mem = s.mem := by cases c <;> rfl
@[simp] theorem State.skipIf_randomIndex (c : Bool) : (s.skipIf c).randomIndex = s.randomIndex := by cases c <;> rfl
@[simp] theorem State.skipIf_reply (c : Bool) : (s.skipIf c).reply = s.reply := by cases c <;> rfl

/-! ### Accessors after an update -/

@[simp] theorem State.reg_setReg (x r : Reg) (b : Byte) : (s.setReg x b).reg r = if r = x then b else s.reg r := by
  simp only [State.reg, State.setReg, Fin.getElem_fin, Vector.getElem_set]
  split <;> split <;> simp_all [Fin.ext_iff]

theorem State.reg_setResultAndFlag (x r : Reg) (a f : Byte) :
    (s.setResultAndFlag x a f).reg r = if r = VF then f else if r = x then a else s.reg r := by
  simp [State.setResultAndFlag]

@[simp] theorem State.reg_loadRegs (x r : Reg) (a : Nat) :
    (s.loadRegs x a).reg r = if r ≤ x then s.memRead (a + r.val) else s.reg r := by
  simp [State.reg, State.loadRegs]

@[simp] theorem State.key_setKey (k j : KeyIndex) (p : Bool) : (s.setKey k p).key j = if j = k then p else s.key j := by
  simp only [State.key, State.setKey, Fin.getElem_fin, Vector.getElem_set]
  split <;> split <;> simp_all [Fin.ext_iff]

@[simp] theorem State.memRead_mod (a : Nat) : s.memRead (a % 4096) = s.memRead a := by
  simp [State.memRead]

/-- A register, a key, a pixel or a byte of memory reads the same in states that agree on the field behind it. -/
theorem State.reg_congr {s t : State} (h : t.v = s.v) (r : Reg) : t.reg r = s.reg r := by
  simp only [State.reg, h]

theorem State.key_congr {s t : State} (h : t.keys = s.keys) (k : KeyIndex) : t.key k = s.key k := by
  simp only [State.key, h]

theorem State.pixel_congr {s t : State} (h : t.display = s.display) (x : Fin 64) (y : Fin 32) : t.pixel x y = s.pixel x y := by
  simp only [State.pixel, h]

theorem State.memRead_congr {s t : State} (h : t.mem = s.mem) (a : Nat) : t.memRead a = s.memRead a := by
  simp only [State.memRead, h]

theorem State.fetchWord_congr {s t : State} (hm : t.mem = s.mem) (hp : t.pc = s.pc) : t.fetchWord = s.fetchWord := by
  simp only [State.fetchWord, State.memRead, hm, hp]

/-! ### Shared operations: everything each can do -/

/-- A taken skip is one more advance, a skip not taken is nothing (R110). -/
theorem State.skipIf_cases (c : Bool) :
    (c = true ∧ s.skipIf c = s.setPc (s.pc + 2)) ∨ (c = false ∧ s.skipIf c = s) := by
  cases c <;> simp [State.skipIf, State.advancePc]

/-- A push either overflows and changes nothing, or stores the address at SP and raises SP by one (R27). -/
theorem State.push_cases (a : Addr) :
    (s.sp.val = 16 ∧ s.push a = none) ∨
    ∃ h : s.sp.val < 16,
      s.push a = some { s with stack := s.stack.set s.sp.val a h, sp := ⟨s.sp.val + 1, by omega⟩ } := by
  by_cases h : s.sp.val < 16
  · exact .inr ⟨h, by simp [State.push, h]⟩
  · exact .inl ⟨by have := s.sp.isLt; omega, by simp [State.push, h]⟩

/-- A pop either underflows and changes nothing, or lowers SP by one and hands back the entry there (R28). -/
theorem State.pop_cases :
    (s.sp.val = 0 ∧ s.pop = none) ∨
    ∃ h : 0 < s.sp.val,
      s.pop = some (s.stack[s.sp.val - 1]'(by omega), { s with sp := ⟨s.sp.val - 1, by omega⟩ }) := by
  by_cases h : 0 < s.sp.val
  · exact .inr ⟨h, by simp [State.pop, h]⟩
  · exact .inl ⟨by omega, by simp [State.pop, h]⟩

/-- What a success answers (R94). -/
theorem done_eq : done s = .next (s.returning .continue) := rfl

/-- What a failure answers under FAILED_STEP_PC = advanced: the state with the failure returned and nothing else changed (R95). -/
theorem raiseFailure_eq (r : Reply) : raiseFailure s r = .next (s.returning r) := rfl

/-- A failure under FAILED_STEP_PC = advanced returns it and changes nothing (R95). -/
@[simp] theorem State.failing_advanced (r : Reply) : s.failing .advanced r = s.returning r := rfl

/-- An FX55 or FX65 under LDST_INCREMENTS_I = false leaves I alone (R144, R145). -/
@[simp] theorem State.bumpIndex_false (x : Reg) : s.bumpIndex false x = s := rfl

end Sys2Proof.Machine
end

