-- ==== Sys2Proof/Laws/Memory.lean ====
section
/-! SUPPORT. Memory: read after write, the canonical form is kept by every operation, and a block of bytes written and read. -/

namespace Sys2Proof.Machine

/-! ### One cell -/

theorem Memory.read_cons (a : Nat) (b : Byte) (m : Memory) (c : Nat) (h : a = c → m.read a = initialByte a) :
    (Memory.cons a b m).read c = if a = c then b else m.read c := by
  unfold Memory.cons
  by_cases hb : b = initialByte a <;> by_cases hc : a = c <;> simp_all [Memory.read]

/-- An address below every listed one is not listed. -/
theorem Memory.read_of_lt {m : Memory} {a : Nat} (h : ∀ c ∈ m, a < c.1) : m.read a = initialByte a := by
  induction m with
  | nil => rfl
  | cons c rest ih =>
    have h1 : a < c.1 := h c (by simp)
    have h2 : c.1 ≠ a := by omega
    simp only [Memory.read, h2, if_false]
    exact ih fun d hd => h d (by simp [hd])

/-- Read after write (R52, R57): the byte written at its address, every other byte as before. -/
theorem Memory.read_write {m : Memory} (hm : m.wf) (a : Nat) (b : Byte) (c : Nat) :
    (m.write a b).read c = if a = c then b else m.read c := by
  induction m with
  | nil => exact Memory.read_cons a b [] c fun _ => rfl
  | cons d rest ih =>
    obtain ⟨k, e⟩ := d
    have hs := List.pairwise_cons.mp hm.1
    have hrest : Memory.wf rest := ⟨hs.2, fun c hc => hm.2 c (by simp [hc])⟩
    unfold Memory.write
    split
    · rename_i hlt
      refine Memory.read_cons a b _ c fun _ => Memory.read_of_lt fun d hd => ?_
      rcases List.mem_cons.mp hd with rfl | hd
      · exact hlt
      · have := hs.1 d hd; simp only at this; omega
    · split
      · rename_i hlt heq
        subst heq
        have hr := Memory.read_of_lt (m := rest) (a := a) hs.1
        rw [Memory.read_cons a b rest c fun _ => hr]
        by_cases hc : a = c <;> simp [Memory.read, hc]
      · rename_i hlt heq
        simp only [Memory.read, ih hrest]
        by_cases h1 : k = c <;> by_cases h2 : a = c <;> simp_all

/-- The canonical form is kept by putting a cell in front. -/
theorem Memory.wf_cons {a : Nat} {b : Byte} {m : Memory} (hm : m.wf) (ha : a < Config.memSize) (h : ∀ c ∈ m, a < c.1) :
    (Memory.cons a b m).wf := by
  unfold Memory.cons
  split
  · exact hm
  · rename_i hb
    refine ⟨List.pairwise_cons.mpr ⟨fun c hc => h c hc, hm.1⟩, fun c hc => ?_⟩
    rcases List.mem_cons.mp hc with rfl | hc
    · exact ⟨ha, hb⟩
    · exact hm.2 c hc

/-- A cell after a write is an old one or the one written. -/
theorem Memory.mem_write {m : Memory} {a : Nat} {b : Byte} {c : Host.Cell} (h : c ∈ m.write a b) : c ∈ m ∨ c = (a, b) := by
  induction m with
  | nil =>
    unfold Memory.write Memory.cons at h
    split at h <;> simp_all
  | cons d rest ih =>
    obtain ⟨k, e⟩ := d
    unfold Memory.write at h
    split at h
    · unfold Memory.cons at h
      split at h <;> (simp_all; try tauto)
    · split at h
      · unfold Memory.cons at h
        split at h <;> (simp_all; try tauto)
      · rcases List.mem_cons.mp h with h | h
        · exact .inl (by simp [h])
        · rcases ih h with h | h
          · exact .inl (by simp [h])
          · exact .inr h

/-- A write keeps the canonical form. -/
theorem Memory.write_wf {m : Memory} (hm : m.wf) {a : Nat} (ha : a < Config.memSize) (b : Byte) : (m.write a b).wf := by
  induction m with
  | nil => exact Memory.wf_cons hm ha (by simp)
  | cons d rest ih =>
    obtain ⟨k, e⟩ := d
    have hs := List.pairwise_cons.mp hm.1
    have hrest : Memory.wf rest := ⟨hs.2, fun c hc => hm.2 c (by simp [hc])⟩
    unfold Memory.write
    split
    · rename_i hlt
      refine Memory.wf_cons hm ha fun c hc => ?_
      rcases List.mem_cons.mp hc with rfl | hc
      · exact hlt
      · have := hs.1 c hc; simp only at this; omega
    · split
      · rename_i heq
        exact Memory.wf_cons hrest ha fun c hc => by have := hs.1 c hc; simp only at this; omega
      · rename_i hlt hne
        refine ⟨List.pairwise_cons.mpr ⟨fun c hc => ?_, (ih hrest).1⟩, fun c hc => ?_⟩
        · rcases Memory.mem_write hc with hc | rfl
          · exact hs.1 c hc
          · simp only; omega
        · rcases List.mem_cons.mp hc with rfl | hc
          · exact hm.2 _ (by simp)
          · exact (ih hrest).2 c hc

/-! ### The state's memory -/

/-- `MemWrite` then `MemRead` (R52): addresses that agree modulo 4096 name one byte. -/
theorem State.memRead_memWrite {s : State} (hs : s.mem.wf) (a c : Nat) (b : Byte) :
    (s.memWrite a b).memRead c = if a % 4096 = c % 4096 then b else s.memRead c := by
  simp only [State.memRead, State.memWrite]
  exact Memory.read_write hs _ b _

theorem State.memWrite_wf {s : State} (hs : s.mem.wf) (a : Nat) (b : Byte) : (s.memWrite a b).mem.wf :=
  Memory.write_wf hs (Nat.mod_lt _ (by decide)) b

/-! ### A block of bytes -/

/-- Everything `writeBytes` leaves alone: all but memory. -/
theorem State.writeBytes_frame (s : State) (a : Nat) (bs : List Byte) :
    s.writeBytes a bs = { s with mem := (s.writeBytes a bs).mem } := by
  induction bs generalizing s a with
  | nil => rfl
  | cons b rest ih =>
    simp only [State.writeBytes]
    exact ih _ _

@[simp] theorem State.writeBytes_v (s : State) (a : Nat) (bs : List Byte) : (s.writeBytes a bs).v = s.v := by
  rw [State.writeBytes_frame]
@[simp] theorem State.writeBytes_i (s : State) (a : Nat) (bs : List Byte) : (s.writeBytes a bs).i = s.i := by
  rw [State.writeBytes_frame]
@[simp] theorem State.writeBytes_pc (s : State) (a : Nat) (bs : List Byte) : (s.writeBytes a bs).pc = s.pc := by
  rw [State.writeBytes_frame]
@[simp] theorem State.writeBytes_stack (s : State) (a : Nat) (bs : List Byte) : (s.writeBytes a bs).stack = s.stack := by
  rw [State.writeBytes_frame]
@[simp] theorem State.writeBytes_sp (s : State) (a : Nat) (bs : List Byte) : (s.writeBytes a bs).sp = s.sp := by
  rw [State.writeBytes_frame]
@[simp] theorem State.writeBytes_dt (s : State) (a : Nat) (bs : List Byte) : (s.writeBytes a bs).dt = s.dt := by
  rw [State.writeBytes_frame]
@[simp] theorem State.writeBytes_st (s : State) (a : Nat) (bs : List Byte) : (s.writeBytes a bs).st = s.st := by
  rw [State.writeBytes_frame]
@[simp] theorem State.writeBytes_display (s : State) (a : Nat) (bs : List Byte) :
    (s.writeBytes a bs).display = s.display := by
  rw [State.writeBytes_frame]
@[simp] theorem State.writeBytes_keys (s : State) (a : Nat) (bs : List Byte) : (s.writeBytes a bs).keys = s.keys := by
  rw [State.writeBytes_frame]
@[simp] theorem State.writeBytes_wait (s : State) (a : Nat) (bs : List Byte) : (s.writeBytes a bs).wait = s.wait := by
  rw [State.writeBytes_frame]
@[simp] theorem State.writeBytes_randomIndex (s : State) (a : Nat) (bs : List Byte) :
    (s.writeBytes a bs).randomIndex = s.randomIndex := by
  rw [State.writeBytes_frame]
@[simp] theorem State.writeBytes_reply (s : State) (a : Nat) (bs : List Byte) : (s.writeBytes a bs).reply = s.reply := by
  rw [State.writeBytes_frame]

theorem State.writeBytes_wf {s : State} (hs : s.mem.wf) (a : Nat) (bs : List Byte) : (s.writeBytes a bs).mem.wf := by
  induction bs generalizing s a with
  | nil => exact hs
  | cons b rest ih => exact ih (State.memWrite_wf hs a b) (a + 1)

/-- A byte outside the block reads as before. -/
theorem State.memRead_writeBytes_outside {s : State} (hs : s.mem.wf) {a c : Nat} {bs : List Byte}
    (h : ∀ k < bs.length, (a + k) % 4096 ≠ c % 4096) : (s.writeBytes a bs).memRead c = s.memRead c := by
  induction bs generalizing s a with
  | nil => rfl
  | cons b rest ih =>
    have h0 : a % 4096 ≠ c % 4096 := by simpa using h 0 (by simp)
    rw [State.writeBytes, ih (State.memWrite_wf hs a b), State.memRead_memWrite hs, if_neg h0]
    intro k hk
    have := h (k + 1) (by simpa using hk)
    rwa [show a + 1 + k = a + (k + 1) by omega]

/-- A byte of the block, if the block is no longer than memory, is the one written there. -/
theorem State.memRead_writeBytes_inside {s : State} (hs : s.mem.wf) {a : Nat} {bs : List Byte} (hlen : bs.length ≤ 4096)
    {k : Nat} (hk : k < bs.length) : (s.writeBytes a bs).memRead (a + k) = bs[k] := by
  induction bs generalizing s a k with
  | nil => simp at hk
  | cons b rest ih =>
    simp only [List.length_cons] at hlen hk
    cases k with
    | zero =>
      rw [State.writeBytes, State.memRead_writeBytes_outside (State.memWrite_wf hs a b)]
      · simp [State.memRead_memWrite hs]
      · intro j hj
        omega
    | succ k =>
      rw [State.writeBytes, show a + (k + 1) = a + 1 + k by omega,
        ih (State.memWrite_wf hs a b) (by omega) (by omega)]
      simp

@[simp] theorem State.readBytes_length (s : State) (a n : Nat) : (s.readBytes a n).length = n := by
  simp [State.readBytes]

@[simp] theorem State.readBytes_getElem (s : State) (a n k : Nat) (h : k < (s.readBytes a n).length) :
    (s.readBytes a n)[k] = s.memRead (a + k) := by
  simp [State.readBytes]

@[simp] theorem resetMachine_display (s : State) : (resetMachine s).display = s.display := by simp [resetMachine]
@[simp] theorem resetMachine_keys (s : State) : (resetMachine s).keys = s.keys := by simp [resetMachine]
@[simp] theorem resetMachine_randomIndex (s : State) : (resetMachine s).randomIndex = s.randomIndex := by simp [resetMachine]

/-- Memory at reset is canonical: nothing is listed. -/
theorem State.reset_mem_wf : State.reset.mem.wf := by decide

end Sys2Proof.Machine
end

