-- ==== Sys2Proof/Laws/Exec.lean ====
section
/-! SUPPORT. What a meaning and a step can do: each meaning that has cases split into them once, and the step split into the
decoded instruction and the rejected word. -/

namespace Sys2Proof.Machine

/-- A return either finds no entry and fails, or takes the last entry to pc and lowers SP (R101). -/
theorem execRet_cases (s : State) :
    (s.sp.val = 0 ∧ execRet s = .next (s.returning .stackUnderflow)) ∨
    ∃ h : 0 < s.sp.val,
      execRet s = done (State.setPc { s with sp := ⟨s.sp.val - 1, by omega⟩ } (s.stack[s.sp.val - 1]'(by omega))) := by
  rcases s.pop_cases with ⟨h0, e⟩ | ⟨h, e⟩
  · exact .inl ⟨h0, by simp only [execRet, e]; rfl⟩
  · exact .inr ⟨h, by simp only [execRet, e]⟩

/-- A call either finds the stack full and fails, or pushes pc and jumps (R103). -/
theorem execCall_cases (nnn : Addr) (s : State) :
    (s.sp.val = 16 ∧ execCall nnn s = .next (s.returning .stackOverflow)) ∨
    ∃ h : s.sp.val < 16,
      execCall nnn s =
        done (State.setPc { s with stack := s.stack.set s.sp.val s.pc h, sp := ⟨s.sp.val + 1, by omega⟩ } nnn) := by
  rcases s.push_cases s.pc with ⟨h0, e⟩ | ⟨h, e⟩
  · exact .inl ⟨h0, by simp only [execCall, e]; rfl⟩
  · exact .inr ⟨h, by simp only [execCall, e]⟩

/-- A keypress wait arms, waits on, or acknowledges (R164 to R166). -/
theorem execLdVxK_cases (x : Reg) (s : State) :
    (s.wait = .idle ∧ execLdVxK x s = done (s.rewindPc.setWait (.armed x))) ∨
    (∃ t, s.wait = .armed t ∧ execLdVxK x s = done s.rewindPc) ∨
    (∃ k, s.wait = .captured k ∧ execLdVxK x s = done (s.setWait .idle)) := by
  rcases h : s.wait with _ | t | k
  · exact .inl ⟨rfl, by simp only [execLdVxK, h]⟩
  · exact .inr (.inl ⟨t, rfl, by simp only [execLdVxK, h]⟩)
  · exact .inr (.inr ⟨k, rfl, by simp only [execLdVxK, h]⟩)

/-- Every meaning answers a next state: nothing faults and nothing is refused (R15, R187). -/
theorem exec_answers (i : Instr) (s : State) : ∃ t, exec i s = .next t := by
  cases i
  case ret => rcases execRet_cases s with ⟨_, e⟩ | ⟨_, e⟩ <;> exact ⟨_, e⟩
  case call nnn => rcases execCall_cases nnn s with ⟨_, e⟩ | ⟨_, e⟩ <;> exact ⟨_, e⟩
  case ldVxK x => rcases execLdVxK_cases x s with ⟨_, e⟩ | ⟨_, _, e⟩ | ⟨_, _, e⟩ <;> exact ⟨_, e⟩
  all_goals exact ⟨_, rfl⟩

/-- A step either runs the instruction its word decodes to, or reports the word (R90, R97). -/
theorem step_cases (s : State) :
    (∃ i, decode s.fetchWord = .ok i ∧ step s = exec i s.advancePc) ∨
    ∃ e, decode s.fetchWord = .error e ∧ step s = .next (s.advancePc.returning (.decodeError s.fetchWord)) := by
  rcases h : decode s.fetchWord with e | i
  · exact .inr ⟨e, rfl, by simp only [step, h]; rfl⟩
  · exact .inl ⟨i, rfl, by simp only [step, h]⟩

end Sys2Proof.Machine
end

