-- ==== Sys2Proof/Laws/Fields.lean ====
section
/-! SUPPORT. The fields of a word made by a format (spec/30_encoding.md R71, R72): each is what went in. -/

namespace Sys2Proof

open Machine

theorem bitsOf_eq_ofFin (x : Fin 16) : bitsOf x = BitVec.ofFin x := by
  apply BitVec.eq_of_toNat_eq
  have := x.isLt
  simp [bitsOf]

@[simp] theorem nibbleOf_bitsOf (x : Fin 16) : nibbleOf (bitsOf x) = x := by
  simp [nibbleOf, bitsOf_eq_ofFin]

@[simp] theorem bitsOf_nibbleOf (b : BitVec 4) : bitsOf (nibbleOf b) = b := by
  simp [nibbleOf, bitsOf_eq_ofFin]

/-! ### The bits of a word, part by part -/

theorem getLsbD_formatA (c : BitVec 4) (nnn : Addr) (i : Nat) :
    (formatA c nnn).getLsbD i = if i < 12 then nnn.getLsbD i else c.getLsbD (i - 12) := by
  unfold formatA
  rw [show (c ++ nnn : Word) = (c ++ nnn : BitVec (4 + 12)) from rfl]
  exact BitVec.getLsbD_append

theorem getLsbD_formatR (c : BitVec 4) (x : Reg) (nn : Byte) (i : Nat) :
    (formatR c x nn).getLsbD i =
      if i < 8 then nn.getLsbD i else if i - 8 < 4 then (bitsOf x).getLsbD (i - 8) else c.getLsbD (i - 8 - 4) := by
  refine (BitVec.getLsbD_append (x := c ++ bitsOf x) (y := nn) (i := i)).trans ?_
  split
  · rfl
  · exact BitVec.getLsbD_append

theorem getLsbD_formatP (c : BitVec 4) (x y : Reg) (n : BitVec 4) (i : Nat) :
    (formatP c x y n).getLsbD i =
      if i < 4 then n.getLsbD i
      else if i - 4 < 4 then (bitsOf y).getLsbD (i - 4)
      else if i - 4 - 4 < 4 then (bitsOf x).getLsbD (i - 4 - 4) else c.getLsbD (i - 4 - 4 - 4) := by
  refine (BitVec.getLsbD_append (x := c ++ bitsOf x ++ bitsOf y) (y := n) (i := i)).trans ?_
  split
  · rfl
  · refine (BitVec.getLsbD_append (x := c ++ bitsOf x) (y := bitsOf y) (i := i - 4)).trans ?_
    split
    · rfl
    · exact BitVec.getLsbD_append

theorem getLsbD_wordOfBytes (o : Config.ByteOrder) (b0 b1 : Byte) (i : Nat) :
    (wordOfBytes o b0 b1).getLsbD i =
      match o with
      | .big => if i < 8 then b1.getLsbD i else b0.getLsbD (i - 8)
      | .little => if i < 8 then b0.getLsbD i else b1.getLsbD (i - 8) := by
  cases o <;> exact BitVec.getLsbD_append

/-! ### Format A -/

@[simp] theorem opClass_formatA (c : BitVec 4) (nnn : Addr) : opClass (formatA c nnn) = c := by
  apply BitVec.eq_of_getLsbD_eq; intro i hi
  simp [opClass, getLsbD_formatA, hi]
@[simp] theorem fieldNNN_formatA (c : BitVec 4) (nnn : Addr) : fieldNNN (formatA c nnn) = nnn := by
  apply BitVec.eq_of_getLsbD_eq; intro i hi
  simp [fieldNNN, getLsbD_formatA, hi]

/-! ### Formats R and K -/

@[simp] theorem opClass_formatR (c : BitVec 4) (x : Reg) (nn : Byte) : opClass (formatR c x nn) = c := by
  apply BitVec.eq_of_getLsbD_eq; intro i hi
  simp [opClass, getLsbD_formatR, hi, show ¬ (12 + i < 8) by omega, show ¬ (12 + i - 8 < 4) by omega,
    show 12 + i - 8 - 4 = i by omega]
@[simp] theorem bitsX_formatR (c : BitVec 4) (x : Reg) (nn : Byte) : bitsX (formatR c x nn) = bitsOf x := by
  apply BitVec.eq_of_getLsbD_eq; intro i hi
  simp [bitsX, getLsbD_formatR, hi]
@[simp] theorem fieldX_formatR (c : BitVec 4) (x : Reg) (nn : Byte) : fieldX (formatR c x nn) = x := by
  simp [fieldX]
@[simp] theorem fieldNN_formatR (c : BitVec 4) (x : Reg) (nn : Byte) : fieldNN (formatR c x nn) = nn := by
  apply BitVec.eq_of_getLsbD_eq; intro i hi
  simp [fieldNN, getLsbD_formatR, hi]

/-! ### Formats P and D -/

@[simp] theorem opClass_formatP (c : BitVec 4) (x y : Reg) (n : BitVec 4) : opClass (formatP c x y n) = c := by
  apply BitVec.eq_of_getLsbD_eq; intro i hi
  simp [opClass, getLsbD_formatP, hi, show ¬ (12 + i < 4) by omega, show ¬ (12 + i - 4 < 4) by omega,
    show ¬ (12 + i - 4 - 4 < 4) by omega, show 12 + i - 4 - 4 - 4 = i by omega]
@[simp] theorem bitsX_formatP (c : BitVec 4) (x y : Reg) (n : BitVec 4) : bitsX (formatP c x y n) = bitsOf x := by
  apply BitVec.eq_of_getLsbD_eq; intro i hi
  simp [bitsX, getLsbD_formatP, hi, show ¬ (8 + i < 4) by omega, show ¬ (8 + i - 4 < 4) by omega,
    show 8 + i - 4 - 4 = i by omega]
@[simp] theorem bitsY_formatP (c : BitVec 4) (x y : Reg) (n : BitVec 4) : bitsY (formatP c x y n) = bitsOf y := by
  apply BitVec.eq_of_getLsbD_eq; intro i hi
  simp [bitsY, getLsbD_formatP, hi]
@[simp] theorem bitsN_formatP (c : BitVec 4) (x y : Reg) (n : BitVec 4) : bitsN (formatP c x y n) = n := by
  apply BitVec.eq_of_getLsbD_eq; intro i hi
  simp [bitsN, getLsbD_formatP, hi]
@[simp] theorem fieldX_formatP (c : BitVec 4) (x y : Reg) (n : BitVec 4) : fieldX (formatP c x y n) = x := by
  simp [fieldX]
@[simp] theorem fieldY_formatP (c : BitVec 4) (x y : Reg) (n : BitVec 4) : fieldY (formatP c x y n) = y := by
  simp [fieldY]
@[simp] theorem fieldN_formatP (c : BitVec 4) (x y : Reg) (n : Fin 16) : fieldN (formatP c x y (bitsOf n)) = n := by
  simp [fieldN]

/-! ### A word is its fields -/

theorem formatA_fields (w : Word) : formatA (opClass w) (fieldNNN w) = w := by
  apply BitVec.eq_of_getLsbD_eq; intro i hi
  simp only [opClass, fieldNNN, getLsbD_formatA, BitVec.getLsbD_extractLsb']
  by_cases h : i < 12
  · simp [h]
  · simp [h, show i - 12 < 4 by omega, show 12 + (i - 12) = i by omega]

theorem formatR_fields (w : Word) : formatR (opClass w) (fieldX w) (fieldNN w) = w := by
  apply BitVec.eq_of_getLsbD_eq; intro i hi
  simp only [opClass, fieldX, bitsX, bitsOf_nibbleOf, fieldNN, getLsbD_formatR, BitVec.getLsbD_extractLsb']
  by_cases h : i < 8
  · simp [h]
  · by_cases h2 : i - 8 < 4
    · simp [h, h2, show 8 + (i - 8) = i by omega]
    · simp [h, h2, show i - 8 - 4 < 4 by omega, show 12 + (i - 8 - 4) = i by omega]

theorem formatP_fields (w : Word) : formatP (opClass w) (fieldX w) (fieldY w) (bitsN w) = w := by
  apply BitVec.eq_of_getLsbD_eq; intro i hi
  simp only [opClass, fieldX, bitsX, fieldY, bitsY, bitsN, bitsOf_nibbleOf, getLsbD_formatP,
    BitVec.getLsbD_extractLsb']
  by_cases h : i < 4
  · simp [h]
  · by_cases h2 : i - 4 < 4
    · simp [h, h2, show 4 + (i - 4) = i by omega]
    · by_cases h3 : i - 4 - 4 < 4
      · simp [h, h2, h3, show 8 + (i - 4 - 4) = i by omega]
      · simp [h, h2, h3, show i - 4 - 4 - 4 < 4 by omega, show 12 + (i - 4 - 4 - 4) = i by omega]

/-! ### Bytes and words -/

@[simp] theorem wordOfBytes_bytes (o : Config.ByteOrder) (w : Word) : wordOfBytes o (firstByte o w) (secondByte o w) = w := by
  cases o <;>
  · apply BitVec.eq_of_getLsbD_eq; intro i hi
    simp only [getLsbD_wordOfBytes, firstByte, secondByte, BitVec.getLsbD_extractLsb']
    by_cases h : i < 8
    · simp [h]
    · simp [h, show i - 8 < 8 by omega, show 8 + (i - 8) = i by omega]

end Sys2Proof
end

