-- ==== Sys2Proof/Laws/PerInstr.lean ====
section
/-! SUPPORT. Statements made per instruction. Family EncodesItsRow: an instruction's word has the fixed bits of a row of
spec/opcode_table.json that carries its mnemonic. -/

namespace Sys2Proof.Laws.EncodesItsRow

/-- A row of the opcode table has the instruction's mnemonic, and the encoded word has that row's fixed bits. -/
def Statement (i : Instr) : Prop :=
  ∃ r ∈ opcodeTable, r.mnemonic = i.mnemonic ∧ encode i &&& r.mask = r.pattern

theorem and_ones4 (c : BitVec 4) : c &&& 15#4 = c := by revert c; decide

theorem and_ones8 (b : Byte) : b &&& 255#8 = b := by
  rw [show (255#8 : Byte) = BitVec.allOnes 8 by decide, BitVec.and_allOnes]

/-- The bits of a format under the three masks of the table. -/
theorem formatA_mask (c : BitVec 4) (nnn : Addr) : formatA c nnn &&& 0xF000 = c ++ 0#12 := by
  rw [show (0xF000 : Word) = (0xF#4 ++ 0#12 : BitVec (4 + 12)) by decide]
  unfold formatA
  refine BitVec.and_append.trans ?_
  simp [and_ones4]

theorem formatR_mask (c : BitVec 4) (x : Reg) (nn : Byte) : formatR c x nn &&& 0xF000 = c ++ 0#12 := by
  rw [show (0xF000 : Word) = (0xF#4 ++ 0#4 ++ 0#8 : BitVec (4 + 4 + 8)) by decide,
    show (c ++ 0#12 : BitVec (4 + 12)) = (c ++ 0#4 ++ 0#8 : BitVec (4 + 4 + 8)) by revert c; decide]
  unfold formatR
  refine BitVec.and_append.trans ?_
  rw [BitVec.and_append]
  simp [and_ones4]

theorem formatR_mask_sub (c : BitVec 4) (x : Reg) (nn : Byte) : formatR c x nn &&& 0xF0FF = (c ++ 0#4 ++ nn : BitVec (4 + 4 + 8)) := by
  rw [show (0xF0FF : Word) = (0xF#4 ++ 0#4 ++ 0xFF#8 : BitVec (4 + 4 + 8)) by decide]
  unfold formatR
  refine BitVec.and_append.trans ?_
  rw [BitVec.and_append]
  simp [and_ones4, and_ones8]

theorem formatP_mask (c : BitVec 4) (x y : Reg) (n : BitVec 4) : formatP c x y n &&& 0xF000 = c ++ 0#12 := by
  rw [show (0xF000 : Word) = (0xF#4 ++ 0#4 ++ 0#4 ++ 0#4 : BitVec (4 + 4 + 4 + 4)) by decide,
    show (c ++ 0#12 : BitVec (4 + 12)) = (c ++ 0#4 ++ 0#4 ++ 0#4 : BitVec (4 + 4 + 4 + 4)) by revert c; decide]
  unfold formatP
  refine BitVec.and_append.trans ?_
  rw [BitVec.and_append, BitVec.and_append]
  simp [and_ones4]

theorem formatP_mask_sub (c : BitVec 4) (x y : Reg) (n : BitVec 4) :
    formatP c x y n &&& 0xF00F = (c ++ 0#8 ++ n : BitVec (4 + 8 + 4)) := by
  rw [show (0xF00F : Word) = (0xF#4 ++ 0#4 ++ 0#4 ++ 0xF#4 : BitVec (4 + 4 + 4 + 4)) by decide,
    show (c ++ 0#8 ++ n : BitVec (4 + 8 + 4)) = (c ++ 0#4 ++ 0#4 ++ n : BitVec (4 + 4 + 4 + 4)) by revert c n; decide]
  unfold formatP
  refine BitVec.and_append.trans ?_
  rw [BitVec.and_append, BitVec.and_append]
  simp [and_ones4]

theorem cls : Statement .cls := ⟨⟨"CLS", 0xF0FF, 0x00E0⟩, by decide, rfl, by decide⟩

theorem ret : Statement .ret := ⟨⟨"RET", 0xF0FF, 0x00EE⟩, by decide, rfl, by decide⟩

theorem sys (nnn : Addr) : Statement (.sys nnn) :=
  ⟨⟨"SYS_nnn", 0xF000, 0x0000⟩, by decide, rfl, by rw [encode, formatA_mask]; decide⟩

theorem jp (nnn : Addr) : Statement (.jp nnn) :=
  ⟨⟨"JP_nnn", 0xF000, 0x1000⟩, by decide, rfl, by rw [encode, formatA_mask]; decide⟩

theorem call (nnn : Addr) : Statement (.call nnn) :=
  ⟨⟨"CALL_nnn", 0xF000, 0x2000⟩, by decide, rfl, by rw [encode, formatA_mask]; decide⟩

theorem seImm (x : Reg) (nn : Byte) : Statement (.seImm x nn) :=
  ⟨⟨"SE_Vx__nn", 0xF000, 0x3000⟩, by decide, rfl, by rw [encode, formatR_mask]; decide⟩

theorem sneImm (x : Reg) (nn : Byte) : Statement (.sneImm x nn) :=
  ⟨⟨"SNE_Vx__nn", 0xF000, 0x4000⟩, by decide, rfl, by rw [encode, formatR_mask]; decide⟩

theorem seReg (x : Reg) (y : Reg) : Statement (.seReg x y) :=
  ⟨⟨"SE_Vx__Vy", 0xF00F, 0x5000⟩, by decide, rfl, by rw [encode, formatP_mask_sub]; decide⟩

theorem ldImm (x : Reg) (nn : Byte) : Statement (.ldImm x nn) :=
  ⟨⟨"LD_Vx__nn", 0xF000, 0x6000⟩, by decide, rfl, by rw [encode, formatR_mask]; decide⟩

theorem addImm (x : Reg) (nn : Byte) : Statement (.addImm x nn) :=
  ⟨⟨"ADD_Vx__nn", 0xF000, 0x7000⟩, by decide, rfl, by rw [encode, formatR_mask]; decide⟩

theorem ldReg (x : Reg) (y : Reg) : Statement (.ldReg x y) :=
  ⟨⟨"LD_Vx__Vy", 0xF00F, 0x8000⟩, by decide, rfl, by rw [encode, formatP_mask_sub]; decide⟩

theorem orReg (x : Reg) (y : Reg) : Statement (.orReg x y) :=
  ⟨⟨"OR_Vx__Vy", 0xF00F, 0x8001⟩, by decide, rfl, by rw [encode, formatP_mask_sub]; decide⟩

theorem andReg (x : Reg) (y : Reg) : Statement (.andReg x y) :=
  ⟨⟨"AND_Vx__Vy", 0xF00F, 0x8002⟩, by decide, rfl, by rw [encode, formatP_mask_sub]; decide⟩

theorem xorReg (x : Reg) (y : Reg) : Statement (.xorReg x y) :=
  ⟨⟨"XOR_Vx__Vy", 0xF00F, 0x8003⟩, by decide, rfl, by rw [encode, formatP_mask_sub]; decide⟩

theorem addReg (x : Reg) (y : Reg) : Statement (.addReg x y) :=
  ⟨⟨"ADD_Vx__Vy", 0xF00F, 0x8004⟩, by decide, rfl, by rw [encode, formatP_mask_sub]; decide⟩

theorem subReg (x : Reg) (y : Reg) : Statement (.subReg x y) :=
  ⟨⟨"SUB_Vx__Vy", 0xF00F, 0x8005⟩, by decide, rfl, by rw [encode, formatP_mask_sub]; decide⟩

theorem shr (x : Reg) (y : Reg) : Statement (.shr x y) :=
  ⟨⟨"SHR_Vx__Vy", 0xF00F, 0x8006⟩, by decide, rfl, by rw [encode, formatP_mask_sub]; decide⟩

theorem subn (x : Reg) (y : Reg) : Statement (.subn x y) :=
  ⟨⟨"SUBN_Vx__Vy", 0xF00F, 0x8007⟩, by decide, rfl, by rw [encode, formatP_mask_sub]; decide⟩

theorem shl (x : Reg) (y : Reg) : Statement (.shl x y) :=
  ⟨⟨"SHL_Vx__Vy", 0xF00F, 0x800E⟩, by decide, rfl, by rw [encode, formatP_mask_sub]; decide⟩

theorem sneReg (x : Reg) (y : Reg) : Statement (.sneReg x y) :=
  ⟨⟨"SNE_Vx__Vy", 0xF00F, 0x9000⟩, by decide, rfl, by rw [encode, formatP_mask_sub]; decide⟩

theorem ldI (nnn : Addr) : Statement (.ldI nnn) :=
  ⟨⟨"LD_I__nnn", 0xF000, 0xA000⟩, by decide, rfl, by rw [encode, formatA_mask]; decide⟩

theorem jpV0 (nnn : Addr) : Statement (.jpV0 nnn) :=
  ⟨⟨"JP_V0__nnn", 0xF000, 0xB000⟩, by decide, rfl, by rw [encode, formatA_mask]; decide⟩

theorem rnd (x : Reg) (nn : Byte) : Statement (.rnd x nn) :=
  ⟨⟨"RND_Vx__nn", 0xF000, 0xC000⟩, by decide, rfl, by rw [encode, formatR_mask]; decide⟩

theorem drw (x : Reg) (y : Reg) (n : Fin 16) : Statement (.drw x y n) :=
  ⟨⟨"DRW_Vx__Vy__n", 0xF000, 0xD000⟩, by decide, rfl, by rw [encode, formatP_mask]; decide⟩

theorem skp (x : Reg) : Statement (.skp x) :=
  ⟨⟨"SKP_Vx", 0xF0FF, 0xE09E⟩, by decide, rfl, by rw [encode, formatR_mask_sub]; decide⟩

theorem sknp (x : Reg) : Statement (.sknp x) :=
  ⟨⟨"SKNP_Vx", 0xF0FF, 0xE0A1⟩, by decide, rfl, by rw [encode, formatR_mask_sub]; decide⟩

theorem ldVxDT (x : Reg) : Statement (.ldVxDT x) :=
  ⟨⟨"LD_Vx__DT", 0xF0FF, 0xF007⟩, by decide, rfl, by rw [encode, formatR_mask_sub]; decide⟩

theorem ldVxK (x : Reg) : Statement (.ldVxK x) :=
  ⟨⟨"LD_Vx__K", 0xF0FF, 0xF00A⟩, by decide, rfl, by rw [encode, formatR_mask_sub]; decide⟩

theorem ldDTVx (x : Reg) : Statement (.ldDTVx x) :=
  ⟨⟨"LD_DT__Vx", 0xF0FF, 0xF015⟩, by decide, rfl, by rw [encode, formatR_mask_sub]; decide⟩

theorem ldSTVx (x : Reg) : Statement (.ldSTVx x) :=
  ⟨⟨"LD_ST__Vx", 0xF0FF, 0xF018⟩, by decide, rfl, by rw [encode, formatR_mask_sub]; decide⟩

theorem addI (x : Reg) : Statement (.addI x) :=
  ⟨⟨"ADD_I__Vx", 0xF0FF, 0xF01E⟩, by decide, rfl, by rw [encode, formatR_mask_sub]; decide⟩

theorem ldF (x : Reg) : Statement (.ldF x) :=
  ⟨⟨"LD_F__Vx", 0xF0FF, 0xF029⟩, by decide, rfl, by rw [encode, formatR_mask_sub]; decide⟩

theorem ldB (x : Reg) : Statement (.ldB x) :=
  ⟨⟨"LD_B__Vx", 0xF0FF, 0xF033⟩, by decide, rfl, by rw [encode, formatR_mask_sub]; decide⟩

theorem ldMemVx (x : Reg) : Statement (.ldMemVx x) :=
  ⟨⟨"LD__I___Vx", 0xF0FF, 0xF055⟩, by decide, rfl, by rw [encode, formatR_mask_sub]; decide⟩

theorem ldVxMem (x : Reg) : Statement (.ldVxMem x) :=
  ⟨⟨"LD_Vx___I", 0xF0FF, 0xF065⟩, by decide, rfl, by rw [encode, formatR_mask_sub]; decide⟩

end Sys2Proof.Laws.EncodesItsRow
end

