-- ==== Sys2Proof/Laws/Screen.lean ====
section
/-! SUPPORT. The display: what toggling and drawing a list of pixels leaves, and which pixels a sprite has (spec/45_display.md R152
to R155). -/

namespace Sys2Proof.Machine

@[simp] theorem Display.pixel_blank (p : Pixel) : Display.pixel Display.blank p = false := by
  simp [Display.pixel, Display.blank]

/-- Toggling a pixel inverts that one and no other. -/
theorem Display.pixel_toggle (d : Display) (p q : Pixel) :
    Display.pixel (Display.toggle d p) q = (Display.pixel d q ^^ decide (p = q)) := by
  obtain ⟨px, py⟩ := p
  obtain ⟨qx, qy⟩ := q
  simp only [Display.pixel, Display.toggle, Fin.getElem_fin, Prod.mk.injEq, Fin.ext_iff]
  by_cases hy : py.val = qy.val
  · by_cases hx : px.val = qx.val
    · simp [hy, hx]
    · simp [hy, hx]
  · simp [hy]

/-- Two displays with the same pixels are the same. -/
theorem Display.ext_pixel {d e : Display} (h : ∀ p, Display.pixel d p = Display.pixel e p) : d = e := by
  apply Vector.ext
  intro y hy
  apply Vector.ext
  intro x hx
  exact h (⟨x, hx⟩, ⟨y, hy⟩)

/-- Drawing a list in which no pixel stands twice inverts exactly its pixels, and says whether one of them was set, or `c` (R152). -/
theorem Display.draw_spec {ps : List Pixel} (hps : ps.Nodup) (d : Display) (c : Bool) :
    (∀ q, Display.pixel (Display.draw ps d c).1 q = (Display.pixel d q ^^ decide (q ∈ ps))) ∧
    ((Display.draw ps d c).2 = true ↔ c = true ∨ ∃ p ∈ ps, Display.pixel d p = true) := by
  induction ps generalizing d c with
  | nil => simp [Display.draw]
  | cons p rest ih =>
    obtain ⟨hp, hrest⟩ := List.nodup_cons.mp hps
    obtain ⟨h1, h2⟩ := ih hrest (Display.toggle d p) (c || Display.pixel d p)
    refine ⟨fun q => ?_, ?_⟩
    · rw [Display.draw, h1, Display.pixel_toggle]
      by_cases hq : p = q
      · subst hq; simp [hp]
      · simp [hq, Ne.symm hq]
    · rw [Display.draw, h2]
      have : (∃ q ∈ rest, Display.pixel (Display.toggle d p) q = true) ↔ ∃ q ∈ rest, Display.pixel d q = true := by
        refine exists_congr fun q => and_congr_right fun hq => ?_
        have : p ≠ q := fun h => hp (h ▸ hq)
        rw [Display.pixel_toggle]; simp [this]
      rw [this]
      simp [or_assoc]

/-- The order in which pixels are drawn does not matter if none stands twice (R154). -/
theorem Display.draw_perm {ps qs : List Pixel} (hqs : qs.Nodup) (h : ps.Perm qs) (d : Display) (c : Bool) :
    Display.draw ps d c = Display.draw qs d c := by
  obtain ⟨hp, fp⟩ := Display.draw_spec (h.nodup_iff.mpr hqs) d c
  obtain ⟨hq, fq⟩ := Display.draw_spec hqs d c
  refine Prod.ext (Display.ext_pixel fun r => ?_) (Bool.eq_iff_iff.mpr ?_)
  · simp only [hp, hq, h.mem_iff]
  · simp only [fp, fq, h.mem_iff]

/-! ### The pixels of a sprite -/

theorem mem_rowPixels {x0 : Byte} {y : Fin 32} {row : Byte} {p : Pixel} :
    p ∈ rowPixels x0 y row ↔ ∃ b, b < 8 ∧ row.getLsbD (7 - b) = true ∧ p.1.val = (x0.toNat + b) % 64 ∧ p.2 = y := by
  obtain ⟨px, py⟩ := p
  simp only [rowPixels, List.mem_map, List.mem_filter, List.mem_range, Prod.mk.injEq, spriteColumn, Fin.ext_iff]
  constructor
  · rintro ⟨b, ⟨h1, h2⟩, h3, h4⟩; exact ⟨b, h1, h2, h3.symm, h4.symm⟩
  · rintro ⟨b, h1, h2, h3, h4⟩; exact ⟨b, ⟨h1, h2⟩, h3.symm, h4.symm⟩

theorem mem_spritePixels {x0 y0 : Byte} {r0 : Nat} {rows : List Byte} {p : Pixel} :
    p ∈ spritePixels x0 y0 r0 rows ↔
      ∃ r b, ∃ h : r < rows.length, b < 8 ∧ rows[r].getLsbD (7 - b) = true ∧
        p.1.val = (x0.toNat + b) % 64 ∧ p.2.val = (y0.toNat + (r0 + r)) % 32 := by
  induction rows generalizing r0 with
  | nil => simp [spritePixels]
  | cons row rest ih =>
    simp only [spritePixels, List.mem_append, mem_rowPixels, ih, spriteRow, Fin.ext_iff]
    constructor
    · rintro (⟨b, h1, h2, h3, h4⟩ | ⟨r, b, h, h1, h2, h3, h4⟩)
      · exact ⟨0, b, by simp, h1, by simpa using h2, h3, by simpa using h4⟩
      · exact ⟨r + 1, b, by simpa using h, h1, by simpa using h2, h3, by rw [h4]; congr 1; omega⟩
    · rintro ⟨r, b, h, h1, h2, h3, h4⟩
      cases r with
      | zero => exact .inl ⟨b, h1, by simpa using h2, h3, by simpa using h4⟩
      | succ r => exact .inr ⟨r, b, by simpa using h, h1, by simpa using h2, h3, by rw [h4]; congr 1; omega⟩

theorem rowPixels_nodup (x0 : Byte) (y : Fin 32) (row : Byte) : (rowPixels x0 y row).Nodup := by
  unfold rowPixels
  refine List.Nodup.map_on ?_ (List.nodup_range.filter _)
  intro a ha b hb h
  simp only [List.mem_filter, List.mem_range] at ha hb
  simp only [spriteColumn, Prod.mk.injEq, Fin.mk.injEq, and_true] at h
  omega

end Sys2Proof.Machine
end

