-- ==== Sys2Proof/Tests/Slice0.lean ====
section
/-! SUPPORT. The model's own tests. Expected results come from the tables of spec/95_test_vectors.md (the row's id stands in each
docstring), words from the formats and patterns of spec/30_encoding.md and spec/opcode_table.json. Then the witnesses: states and
operands that meet the hypotheses of the statements. -/

namespace Sys2Proof.Tests

open Sys2Proof Sys2Proof.Machine

/-! ### Helpers -/

/-- The constructed machine with some registers set. -/
def regs (l : List (Reg × Byte)) : State := l.foldl (fun s p => s.setReg p.1 p.2) State.reset

/-- Bytes written at an address. -/
def bytesAt (a : Nat) (bs : List Byte) (s : State) : State := s.writeBytes a bs

/-- One step over the word `w`, placed at pc, leaves a state with property `p`. -/
def leaves (w : Word) (s : State) (p : State → Bool) : Bool :=
  match step (s.placeWord w) with
  | .next t => p t
  | .fault _ | .refused _ => false

/-- One host transaction leaves a state with property `p`. -/
def after (a : Transaction) (s : State) (p : State → Bool) : Bool :=
  match transact a s with
  | .next t => p t
  | .fault _ | .refused _ => false

/-- The key `k` held down. -/
def held (k : KeyIndex) (s : State) : State := s.setKey k true

/-- The display with one pixel set. -/
def lit (p : Pixel) (s : State) : State := { s with display := Display.toggle Display.blank p }

/-! ### Well-formedness: what each check refuses -/

theorem test_wellFormed_refuses_sys_of_cls : (Instr.sys 0x0E0).wellFormed = false := by decide
theorem test_wellFormed_refuses_sys_of_cls_with_a_high_nibble : (Instr.sys 0x1E0).wellFormed = false := by decide
theorem test_wellFormed_refuses_sys_of_ret : (Instr.sys 0x0EE).wellFormed = false := by decide
theorem test_wellFormed_accepts_other_machine_calls :
    (Instr.sys 0x000).wellFormed = true ∧ (Instr.sys 0xE00).wellFormed = true ∧ (Instr.sys 0x0EF).wellFormed = true := by decide

/-! ### Decoding: words written out from the formats of R72 and the patterns of R74 -/

/-- Class 0: 0000 .... 1110 0000, 0000 .... 1110 1110, and every other low byte. -/
theorem test_decode_class0 :
    decode 0b0000000011100000 = .ok .cls ∧ decode 0b0000000011101110 = .ok .ret ∧
    decode 0b0000000100100011 = .ok (.sys 0x123) ∧ decode 0b0000010111100000 = .ok .cls ∧
    decode 0b0000000111101110 = .ok .ret ∧ decode 0b0000000000000000 = .ok (.sys 0) :=
  ⟨rfl, rfl, rfl, rfl, rfl, rfl⟩

/-- Format A: the class and twelve address bits. -/
theorem test_decode_format_a :
    decode 0b0001001000110100 = .ok (.jp 0x234) ∧ decode 0b0010111100000001 = .ok (.call 0xF01) ∧
    decode 0b1010001011110000 = .ok (.ldI 0x2F0) ∧ decode 0b1011010110101010 = .ok (.jpV0 0x5AA) :=
  ⟨rfl, rfl, rfl, rfl⟩

/-- Format R: the class, X in bits 11:8, NN in bits 7:0. -/
theorem test_decode_format_r :
    decode 0b0011001101000010 = .ok (.seImm 3 0x42) ∧ decode 0b0100111101000001 = .ok (.sneImm 15 0x41) ∧
    decode 0b0110101000000101 = .ok (.ldImm 10 0x05) ∧ decode 0b0111101000000011 = .ok (.addImm 10 0x03) ∧
    decode 0b1100001100001111 = .ok (.rnd 3 0x0F) :=
  ⟨rfl, rfl, rfl, rfl, rfl⟩

/-- Format P: X in bits 11:8, Y in bits 7:4, the sub-code in bits 3:0. -/
theorem test_decode_format_p :
    decode 0b0101000100100000 = .ok (.seReg 1 2) ∧ decode 0b1001000100100000 = .ok (.sneReg 1 2) ∧
    decode 0b1000000100100000 = .ok (.ldReg 1 2) ∧ decode 0b1000000100100001 = .ok (.orReg 1 2) ∧
    decode 0b1000000100100010 = .ok (.andReg 1 2) ∧ decode 0b1000000100100011 = .ok (.xorReg 1 2) ∧
    decode 0b1000000100100100 = .ok (.addReg 1 2) ∧ decode 0b1000000100100101 = .ok (.subReg 1 2) ∧
    decode 0b1000000100100110 = .ok (.shr 1 2) ∧ decode 0b1000000100100111 = .ok (.subn 1 2) ∧
    decode 0b1000000100101110 = .ok (.shl 1 2) ∧ decode 0b1101101101010111 = .ok (.drw 11 5 7) :=
  ⟨rfl, rfl, rfl, rfl, rfl, rfl, rfl, rfl, rfl, rfl, rfl, rfl⟩

/-- Format K: X in bits 11:8, the sub-code in bits 7:0. -/
theorem test_decode_format_k :
    decode 0b1110010110011110 = .ok (.skp 5) ∧ decode 0b1110010110100001 = .ok (.sknp 5) ∧
    decode 0b1111001100000111 = .ok (.ldVxDT 3) ∧ decode 0b1111010100001010 = .ok (.ldVxK 5) ∧
    decode 0b1111001100010101 = .ok (.ldDTVx 3) ∧ decode 0b1111001100011000 = .ok (.ldSTVx 3) ∧
    decode 0b1111000000011110 = .ok (.addI 0) ∧ decode 0b1111010000101001 = .ok (.ldF 4) ∧
    decode 0b1111101000110011 = .ok (.ldB 10) ∧ decode 0b1111001001010101 = .ok (.ldMemVx 2) ∧
    decode 0b1111001001100101 = .ok (.ldVxMem 2) :=
  ⟨rfl, rfl, rfl, rfl, rfl, rfl, rfl, rfl, rfl, rfl, rfl⟩

/-- S6, S10, A36, A37, S16 and a sub-code R79 does not list: rejected by name, with the word. -/
theorem test_decode_rejects_by_name :
    decode 0x5121 = .error (.class5SubCode 0x5121) ∧ decode 0x912F = .error (.class9SubCode 0x912F) ∧
    decode 0x8128 = .error (.class8SubCode 0x8128) ∧ decode 0x812F = .error (.class8SubCode 0x812F) ∧
    decode 0xE59F = .error (.classESubCode 0xE59F) ∧ decode 0xF0FF = .error (.classFSubCode 0xF0FF) :=
  ⟨rfl, rfl, rfl, rfl, rfl, rfl⟩

/-- W8: the bytes 6A 05 7A 03 in memory order are two instructions; one byte alone is none. -/
theorem test_decodeBytes_takes_two_bytes :
    decodeBytes [0x6A, 0x05, 0x7A, 0x03] = .ok (.ldImm 10 5, [0x7A, 0x03]) ∧ decodeBytes [0x6A] = .error .truncated ∧
    decodeBytes [] = .error .truncated :=
  ⟨rfl, rfl, rfl⟩

theorem test_decodeTableWord :
    decodeTableWord 16 0x6A05 = some (.ldImm 10 5) ∧ decodeTableWord 16 0x5121 = none ∧
    decodeTableWord 16 0x00E0 = some .cls := by decide

/-- The words of spec/95_test_vectors.md for some instructions, encoded. -/
theorem test_encode :
    encode (.ldImm 10 5) = 0x6A05 ∧ encode (.drw 0 1 5) = 0xD015 ∧ encode (.shl 1 2) = 0x812E ∧ encode (.jp 0x20C) = 0x120C ∧
    encode (.ldB 10) = 0xFA33 ∧ encode (.sknp 5) = 0xE5A1 ∧ encodeBytes (.ldMemVx 1) = [0xF1, 0x55] := by decide

theorem test_little_endian_alternative :
    wordOfBytes .little 0x05 0x6A = 0x6A05 ∧ firstByte .little 0x6A05 = 0x05 ∧ secondByte .little 0x6A05 = 0x6A := by decide

/-- F5 under whole word: 01EE selects neither 00E0 nor 00EE. -/
theorem test_whole_word_class0_alternative :
    class0IsRet .wholeWord 0x1EE = false ∧ class0IsRet .wholeWord 0x0EE = true ∧ class0IsCls .wholeWord 0x1E0 = false ∧
    class0IsCls .wholeWord 0x0E0 = true := by decide

/-! ### Control transfer -/

/-- F1. -/
theorem test_sys_is_a_decode_error :
    leaves 0x0123 State.reset (fun t => t.reply == some (.decodeError 0x0123) && t.pc == 0x202) = true := by decide

/-- F3. -/
theorem test_ret_pops :
    leaves 0x00EE { State.reset with sp := 1, stack := State.reset.stack.set 0 0x204 }
      (fun t => t.pc == 0x204 && t.sp == 0 && t.reply == some .continue) = true := by decide

/-- F4. -/
theorem test_ret_underflows :
    leaves 0x00EE State.reset (fun t => t.reply == some .stackUnderflow && t.pc == 0x202 && t.sp == 0) = true := by decide

/-- F6, F7: an odd target is taken. -/
theorem test_jp_takes_an_odd_target : leaves 0x1201 State.reset (fun t => t.pc == 0x201) = true := by decide

/-- F7: the fetch from an odd address reads M[201] and M[202]. -/
theorem test_odd_fetch :
    (bytesAt 0x200 [0x12, 0x6A, 0x05] { State.reset with pc := 0x201 }).fetchWord = 0x6A05 := by decide

/-- F10: the advanced pc wraps before it is pushed. -/
theorem test_call_pushes_the_wrapped_pc :
    leaves 0x2000 { State.reset with pc := 0xFFE } (fun t => t.stack[0] == 0 && t.sp == 1 && t.pc == 0) = true := by decide

/-- F9. -/
theorem test_call_overflows :
    leaves 0x2300 { State.reset with sp := 16 }
      (fun t => t.reply == some .stackOverflow && t.pc == 0x202 && t.sp == 16) = true := by decide

/-- P5, step 17, under FAILED_STEP_PC = unchanged: pc is the failing address. -/
theorem test_failed_step_pc_unchanged_alternative :
    (State.failing .unchanged { State.reset with pc := 0x202 } .stackOverflow).pc = 0x200 := by decide

/-- F12: the sum wraps. -/
theorem test_jpV0_wraps : leaves 0xBFFF (regs [(0, 0xFF)]) (fun t => t.pc == 0x0FE) = true := by decide

/-- F14: V0 is added, not V5. -/
theorem test_jpV0_reads_V0 : leaves 0xB5AA (regs [(5, 0x77)]) (fun t => t.pc == 0x5AA) = true := by decide

/-! ### Skips -/

/-- S1, S2. -/
theorem test_seImm :
    leaves 0x3342 (regs [(3, 0x42)]) (fun t => t.pc == 0x204) = true ∧
    leaves 0x3341 (regs [(3, 0x42)]) (fun t => t.pc == 0x202) = true := by decide

/-- S17: the skip wraps. -/
theorem test_seImm_wraps : leaves 0x3F00 { State.reset with pc := 0xFFC } (fun t => t.pc == 0x000) = true := by decide

/-- S3, S4. -/
theorem test_sneImm :
    leaves 0x4341 (regs [(3, 0x42)]) (fun t => t.pc == 0x204) = true ∧
    leaves 0x4342 (regs [(3, 0x42)]) (fun t => t.pc == 0x202) = true := by decide

/-- S5; registers that differ do not skip (R113). -/
theorem test_seReg :
    leaves 0x5120 (regs [(1, 7), (2, 7)]) (fun t => t.pc == 0x204) = true ∧
    leaves 0x5120 (regs [(1, 7), (2, 8)]) (fun t => t.pc == 0x202) = true := by decide

/-- S8, S9. -/
theorem test_sneReg :
    leaves 0x9120 (regs [(1, 7), (2, 8)]) (fun t => t.pc == 0x204) = true ∧
    leaves 0x9110 (regs [(1, 7), (2, 8)]) (fun t => t.pc == 0x202) = true := by decide

/-- S11, S12. -/
theorem test_skp :
    leaves 0xE59E (held 10 (regs [(5, 0x0A)])) (fun t => t.pc == 0x204) = true ∧
    leaves 0xE59E (regs [(5, 0x0A)]) (fun t => t.pc == 0x202) = true := by decide

/-- S15: the low nibble selects. -/
theorem test_skp_takes_the_low_nibble :
    leaves 0xE59E (held 10 (regs [(5, 0x1A)])) (fun t => t.pc == 0x204) = true := by decide

/-- S13, S14. -/
theorem test_sknp :
    leaves 0xE5A1 (regs [(5, 0x0A)]) (fun t => t.pc == 0x204) = true ∧
    leaves 0xE5A1 (held 10 (regs [(5, 0x0A)])) (fun t => t.pc == 0x202) = true := by decide

/-- S18: what is skipped is not decoded. -/
theorem test_skip_over_an_illegal_word :
    leaves 0x3000 (bytesAt 0x202 [0xFF, 0xFF] State.reset) (fun t => t.pc == 0x204 && t.reply == some .continue) = true := by
  decide

/-! ### Arithmetic and logic -/

/-- A1. -/
theorem test_ldImm : leaves 0x6A05 State.reset (fun t => t.reg 10 == 5 && t.pc == 0x202) = true := by decide

/-- A4: it wraps and leaves VF. -/
theorem test_addImm_wraps_without_a_flag :
    leaves 0x7A01 (regs [(10, 0xFF), (15, 0x55)]) (fun t => t.reg 10 == 0 && t.reg 15 == 0x55) = true := by decide

/-- A5. -/
theorem test_ldReg : leaves 0x8120 (regs [(2, 0x33)]) (fun t => t.reg 1 == 0x33 && t.reg 2 == 0x33) = true := by decide

/-- A6. -/
theorem test_orReg :
    leaves 0x8121 (regs [(1, 0xF0), (2, 0x0F), (15, 0x55)]) (fun t => t.reg 1 == 0xFF && t.reg 15 == 0x55) = true := by decide

/-- A7. -/
theorem test_andReg :
    leaves 0x8122 (regs [(1, 0xF0), (2, 0x3C), (15, 0x55)]) (fun t => t.reg 1 == 0x30 && t.reg 15 == 0x55) = true := by decide

/-- A8. -/
theorem test_xorReg :
    leaves 0x8123 (regs [(1, 0xF0), (2, 0x3C), (15, 0x55)]) (fun t => t.reg 1 == 0xCC && t.reg 15 == 0x55) = true := by decide

/-- A10, A13. -/
theorem test_addReg :
    leaves 0x8124 (regs [(1, 0xFF), (2, 1)]) (fun t => t.reg 1 == 0 && t.reg 15 == 1) = true ∧
    leaves 0x8124 (regs [(1, 7), (15, 9)]) (fun t => t.reg 1 == 7 && t.reg 15 == 0) = true := by decide

/-- A15, A16: VF as destination and as source. -/
theorem test_addReg_with_VF :
    leaves 0x8F14 (regs [(15, 0x10), (1, 0xF5)]) (fun t => t.reg 15 == 1) = true ∧
    leaves 0x81F4 (regs [(1, 1), (15, 0xFF)]) (fun t => t.reg 1 == 0 && t.reg 15 == 1) = true := by decide

/-- A18, A19. -/
theorem test_subReg :
    leaves 0x8125 (regs [(1, 5), (2, 5)]) (fun t => t.reg 1 == 0 && t.reg 15 == 1) = true ∧
    leaves 0x8125 (regs [(1, 3), (2, 5)]) (fun t => t.reg 1 == 0xFE && t.reg 15 == 0) = true := by decide

/-- A23: the source is the second register. -/
theorem test_shr :
    leaves 0x8126 (regs [(2, 0x81), (1, 0x99)]) (fun t => t.reg 1 == 0x40 && t.reg 15 == 1 && t.reg 2 == 0x81) = true := by
  decide

/-- A27: VF is the source and then the flag. -/
theorem test_shr_of_VF : leaves 0x81F6 (regs [(15, 3)]) (fun t => t.reg 1 == 1 && t.reg 15 == 1) = true := by decide

/-- A28, A29. -/
theorem test_subn :
    leaves 0x8127 (regs [(1, 3), (2, 5)]) (fun t => t.reg 1 == 2 && t.reg 15 == 1) = true ∧
    leaves 0x8127 (regs [(1, 5), (2, 3)]) (fun t => t.reg 1 == 0xFE && t.reg 15 == 0) = true := by decide

/-- A31: the flag is the raw bit. -/
theorem test_shl :
    leaves 0x812E (regs [(2, 0x81), (1, 0x99)]) (fun t => t.reg 1 == 2 && t.reg 15 == 0x80 && t.reg 2 == 0x81) = true := by
  decide

/-- A35: the normalized alternative. -/
theorem test_shl_normalized_alternative : shlFlag .normalized 0x81 = 1 ∧ shlFlag .normalized 0x7F = 0 := by decide

/-- A39: whatever byte the stream gives, and one byte is taken. -/
theorem test_rnd_masked_by_zero :
    ∃ t, step (State.reset.placeWord 0xC300) = .next t ∧ t.reg 3 = 0 ∧ t.randomIndex = 1 := by
  refine ⟨_, rfl, ?_, rfl⟩
  exact BitVec.and_zero

/-! ### Index register and memory -/

/-- M2. -/
theorem test_ldI : leaves 0xA123 { State.reset with i := 0xFFFF } (fun t => t.i == 0x0123) = true := by decide

/-- M4, M5: the overflow is the 16-bit one, and VF stays without it. -/
theorem test_addI :
    leaves 0xF01E { regs [(0, 1)] with i := 0xFFFF } (fun t => t.i == 0 && t.reg 15 == 1) = true ∧
    leaves 0xF01E { regs [(0, 1), (15, 0x55)] with i := 0x0FFF } (fun t => t.i == 0x1000 && t.reg 15 == 0x55) = true := by
  decide

/-- M6: VF is the operand and then the flag. -/
theorem test_addI_of_VF :
    leaves 0xFF1E { regs [(15, 0x20)] with i := 0xFFF0 } (fun t => t.i == 0x0010 && t.reg 15 == 1) = true := by decide

theorem test_indexFlag_cleared_alternative : indexFlag .cleared false 0x55 = 0 ∧ indexFlag .cleared true 0x55 = 1 := by decide

/-- M10, M11. -/
theorem test_ldF :
    leaves 0xFF29 (regs [(15, 0x0F)]) (fun t => t.i == 0x004B) = true ∧
    leaves 0xF429 (regs [(4, 0x1A)]) (fun t => t.i == 0x0032) = true := by decide

/-- M12. -/
theorem test_ldB :
    leaves 0xFA33 { regs [(10, 0x9C)] with i := 0x0300 }
      (fun t => t.readBytes 0x300 3 == [1, 5, 6] && t.i == 0x0300) = true := by decide

/-- M16: the block wraps into the glyphs. -/
theorem test_ldB_wraps :
    leaves 0xF033 { regs [(0, 0x7B)] with i := 0x0FFF } (fun t => t.readBytes 0xFFF 3 == [1, 2, 3]) = true := by decide

/-- M17. -/
theorem test_ldMemVx :
    leaves 0xF255 { regs [(0, 0x11), (1, 0x22), (2, 0x33), (3, 0x44)] with i := 0x0400 }
      (fun t => t.readBytes 0x400 4 == [0x11, 0x22, 0x33, 0] && t.i == 0x0400) = true := by decide

/-- M20, at its ends. -/
theorem test_ldMemVx_wraps :
    leaves 0xFF55 { regs [(7, 7), (8, 8), (15, 15)] with i := 0x0FF8 }
      (fun t => t.memRead 0xFFF == 7 && t.memRead 0x000 == 8 && t.memRead 0x007 == 15 && t.memRead 0x008 == 0x20) = true := by
  decide

/-- M18: the increment alternative. -/
theorem test_bumpIndex_alternative : (State.bumpIndex true { State.reset with i := 0x0400 } 2).i = 0x0403 := by decide

/-- M21. -/
theorem test_ldVxMem :
    leaves 0xF265 (bytesAt 0x300 [1, 5, 6, 9] { regs [(3, 0x77)] with i := 0x0300 })
      (fun t => t.reg 0 == 1 && t.reg 1 == 5 && t.reg 2 == 6 && t.reg 3 == 0x77) = true := by decide

/-- M23: I is taken modulo 4096. -/
theorem test_ldVxMem_wraps :
    leaves 0xF065 (bytesAt 0x300 [0x5C] { State.reset with i := 0x1300 }) (fun t => t.reg 0 == 0x5C && t.i == 0x1300) = true := by
  decide

/-! ### Display -/

/-- G1. -/
theorem test_cls :
    leaves 0x00E0 (lit (3, 4) (regs [(15, 0x55)]))
      (fun t => !t.pixel 3 4 && t.reg 15 == 0x55 && t.reply == some .continue) = true := by decide

/-- G2: glyph 0, its first rows. -/
theorem test_drw_glyph :
    leaves 0xD015 State.reset
      (fun t => t.pixel 0 0 && t.pixel 3 0 && !t.pixel 4 0 && t.pixel 0 1 && !t.pixel 1 1 && t.pixel 3 1 && t.pixel 3 4 &&
        t.reg 15 == 0 && t.reply == some .redraw) = true := by decide

/-- G4, G5: both axes wrap. -/
theorem test_drw_wraps :
    leaves 0xD011 (bytesAt 0x300 [0xFF] { regs [(0, 60)] with i := 0x300 })
      (fun t => t.pixel 60 0 && t.pixel 63 0 && t.pixel 0 0 && t.pixel 3 0 && !t.pixel 4 0 && !t.pixel 59 0) = true ∧
    leaves 0xD012 (bytesAt 0x300 [0x80, 0x80] { regs [(1, 31)] with i := 0x300 })
      (fun t => t.pixel 0 31 && t.pixel 0 0) = true := by decide

/-- G7: no rows. -/
theorem test_drw_of_no_rows :
    leaves 0xD010 (lit (3, 4) (regs [(15, 0x55)]))
      (fun t => t.pixel 3 4 && !t.pixel 0 0 && t.reg 15 == 0 && t.reply == some .redraw) = true := by decide

/-- G8, G9: a collision is a set pixel under a set bit. -/
theorem test_drw_collides :
    leaves 0xD011 (bytesAt 0x300 [0x80] (lit (0, 0) { State.reset with i := 0x300 }))
      (fun t => !t.pixel 0 0 && t.reg 15 == 1) = true ∧
    leaves 0xD011 (bytesAt 0x300 [0x80] (lit (1, 0) { State.reset with i := 0x300 }))
      (fun t => t.pixel 0 0 && t.pixel 1 0 && t.reg 15 == 0) = true := by decide

/-- G10: the column is VF before it is written. -/
theorem test_drw_reads_VF_first :
    leaves 0xDF11 (bytesAt 0x300 [0x80] { regs [(15, 5)] with i := 0x300 }) (fun t => t.pixel 5 0 && t.reg 15 == 0) = true := by
  decide

/-! ### Timers and keypad -/

/-- T1. -/
theorem test_ldVxDT : leaves 0xF307 { State.reset with dt := 0x3C } (fun t => t.reg 3 == 0x3C && t.dt == 0x3C) = true := by decide

/-- T2. -/
theorem test_ldDTVx : leaves 0xF315 (regs [(3, 0x3C)]) (fun t => t.dt == 0x3C && t.st == 0) = true := by decide

/-- T3. -/
theorem test_ldSTVx : leaves 0xF318 (regs [(3, 5)]) (fun t => t.st == 5 && t.dt == 0) = true := by decide

/-- K1, K10. -/
theorem test_ldVxK_arms :
    leaves 0xF50A State.reset (fun t => t.wait == .armed 5 && t.pc == 0x200 && t.reply == some .continue) = true ∧
    leaves 0xF50A { State.reset with pc := 0xFFE } (fun t => t.wait == .armed 5 && t.pc == 0xFFE) = true := by decide

/-- K11, K4. -/
theorem test_ldVxK_waits_and_acknowledges :
    leaves 0xF30A { State.reset with wait := .armed 5 } (fun t => t.wait == .armed 5 && t.pc == 0x200) = true ∧
    leaves 0xF50A { regs [(5, 7)] with wait := .captured 7 }
      (fun t => t.wait == .idle && t.pc == 0x202 && t.reg 5 == 7) = true := by decide

/-! ### Host transactions -/

/-- K3, K9. -/
theorem test_press_captures :
    after (.setKey 7 true) { State.reset with wait := .armed 5 }
      (fun t => t.key 7 && t.reg 5 == 7 && t.wait == .captured 7) = true ∧
    after (.setKey 4 true) { State.reset with wait := .armed 15 }
      (fun t => t.reg 15 == 4 && t.wait == .captured 4) = true := by decide

/-- K5, K6, K8: no press transition, a release, a wait that is over. -/
theorem test_no_capture :
    after (.setKey 7 true) (held 7 { State.reset with wait := .armed 5 })
      (fun t => t.wait == .armed 5 && t.reg 5 == 0) = true ∧
    after (.setKey 3 false) (held 3 { State.reset with wait := .armed 5 })
      (fun t => t.wait == .armed 5 && !t.key 3) = true ∧
    after (.setKey 9 true) { regs [(5, 7)] with wait := .captured 7 }
      (fun t => t.key 9 && t.wait == .captured 7 && t.reg 5 == 7) = true := by decide

/-- H6. -/
theorem test_setKey_refuses_index_16 : transact (.setKey 16 true) State.reset = .refused (.keyIndexOutOfRange 16) := rfl

/-- T4, T6. -/
theorem test_tick :
    after .tickTimers { State.reset with dt := 1 } (fun t => t.dt == 0 && t.st == 0) = true ∧
    after .tickTimers { State.reset with dt := 0xFF } (fun t => t.dt == 0xFE) = true := by decide

/-- H4. -/
theorem test_load_keeps_what_lies_behind :
    after (.load [0x12, 0x00]) (bytesAt 0x200 [0x6A, 0x05, 0x7A, 0x03] State.reset)
      (fun t => t.readBytes 0x200 4 == [0x12, 0x00, 0x7A, 0x03] && t.reply == some .loadOk) = true := by decide

/-- H2. -/
theorem test_load_of_3585_bytes (s : State) :
    transact (.load (List.replicate 3585 0)) s = .next (s.returning .loadError) := by
  have h : ¬ (List.replicate 3585 (0 : Byte)).length ≤ 3584 := by rw [List.length_replicate]; decide
  exact congrArg Host.Outcome.next (if_neg h)

/-- H5, K12. -/
theorem test_reset :
    after .reset (lit (0, 0) (bytesAt 0 [0xCD] { regs [(3, 9)] with dt := 4, pc := 0x456, sp := 2, wait := .armed 5 }))
      (fun t => t.memRead 0 == 0xF0 && t.reg 3 == 0 && t.dt == 0 && t.pc == 0x200 && t.sp == 0 && t.pixel 0 0 &&
        t.wait == .idle) = true := by decide

/-- R197. -/
theorem test_reads :
    after .readPixels (lit (0, 0) State.reset) (fun t => t.reply == some (.pixels (Display.toggle Display.blank (0, 0)))) = true ∧
    after .readSoundTimer { State.reset with st := 9 } (fun t => t.reply == some (.soundTimer 9) && t.st == 9) = true := by
  decide

/-- Writing the byte an address reads as unlisted removes its cell. -/
theorem test_memory_is_canonical :
    (bytesAt 0x300 [0] (bytesAt 0x300 [7] State.reset)).mem = [] ∧ (bytesAt 0 [0xF0] (bytesAt 0 [7] State.reset)).mem = [] ∧
    (bytesAt 0 [7] (bytesAt 0x300 [7] State.reset)).mem = [(0, 7), (0x300, 7)] := by decide

/-- withFetchWord: the very next step runs the word. -/
theorem test_withFetchWord :
    (State.reset.withFetchWord 16 0x6A05).fetchWord = 0x6A05 ∧ (State.reset.withFetchWord 16 0x6A05).pc = 0x200 := by decide

/-! ### Witnesses: the hypotheses of each statement, each clause at a boundary value

A witness names its statement. `placed w s` is `s` with the word `w` at pc. -/

/-- A state with a word at pc. -/
def placed (w : Word) (s : State) : State := s.placeWord w

/-- The stack full, and the stack with one entry free. -/
def full : State := { State.reset with sp := 16 }
def oneFree : State := { State.reset with sp := 15 }

/-- Memory in canonical form with cells listed. -/
def stored : State := bytesAt 0 [0xCD] (bytesAt 0xFFF [0xAB] State.reset)

theorem witness_canonical_memory : State.reset.MemoryCanonical ∧ stored.MemoryCanonical ∧ stored.mem = [(0, 0xCD), (0xFFF, 0xAB)] := by
  decide

theorem witness_DecodeOfEncodeIsTheInstruction :
    (Instr.sys 0x123).wellFormed = true ∧ (Instr.drw 15 15 15).wellFormed = true ∧ Instr.cls.wellFormed = true := by decide

theorem witness_EncodeOfDecodeIsTheWord :
    decode 0xFF65 = .ok (.ldVxMem 15) ∧ decode 0x0FEE = .ok .ret ∧ decode 0x00E0 = .ok .cls := ⟨rfl, rfl, rfl⟩

theorem witness_DecoderFollowsTheOpcodeTable :
    (matchingRow 0x01E0).map OpcodeRow.mnemonic = some "CLS" ∧ (matchingRow 0x01E1).map OpcodeRow.mnemonic = some "SYS_nnn" ∧
    (matchingRow 0x5121).map OpcodeRow.mnemonic = none := by decide

theorem witness_RejectedSubCodesAreTheListedOnes :
    ((opClass 0x5121 = 0x5 ∨ opClass 0x5121 = 0x9) ∧ bitsN 0x5121 ≠ 0) ∧ (opClass 0x912F = 0x9 ∧ bitsN 0x912F ≠ 0) ∧
    (opClass 0x8128 = 0x8 ∧ bitsN 0x8128 = 0x8) ∧ (opClass 0x812F = 0x8 ∧ bitsN 0x812F = 0xF) ∧
    (opClass 0xE59F = 0xE ∧ fieldNN 0xE59F = 0x9F) ∧ (opClass 0xF066 = 0xF ∧ fieldNN 0xF066 = 0x66) := by decide

/-- Across the end of memory: the bytes at FFF and 000 make the word. -/
theorem witness_StepRunsTheDecodedInstruction :
    ∃ s : State, s.pc = 0xFFF ∧
      decode (s.memRead s.pc.toNat ++ s.memRead (s.pc.toNat + 1) : BitVec (8 + 8)) = .ok (.ldImm 10 5) :=
  ⟨placed 0x6A05 { State.reset with pc := 0xFFF }, rfl, rfl⟩

theorem witness_IllegalWordIsADecodeError : decode (placed 0x5121 State.reset).fetchWord = .error (.class5SubCode 0x5121) := rfl

/-- Each of the three failures. -/
theorem witness_FailedStepChangesOnlyThePc :
    (∃ t, step (placed 0x2300 full) = .next t ∧ t.failed = true) ∧ (∃ t, step (placed 0x00EE State.reset) = .next t ∧ t.failed = true) ∧
    ∃ t, step (placed 0x5121 State.reset) = .next t ∧ t.failed = true :=
  ⟨⟨_, rfl, rfl⟩, ⟨_, rfl, rfl⟩, ⟨_, rfl, rfl⟩⟩

/-- Each cause, and beside each of the two stack causes the nearest state without it. -/
theorem witness_EveryStepAnswersAndFailsOnlyForItsCause :
    (∃ t, step (placed 0x912F State.reset) = .next t ∧ t.reply = some (.decodeError 0x912F)) ∧
    (∃ t, step (placed 0x0000 State.reset) = .next t ∧ t.reply = some (.decodeError 0x0000)) ∧
    (∃ t, step (placed 0x2300 full) = .next t ∧ t.reply = some .stackOverflow) ∧
    (∃ t, step (placed 0x2300 oneFree) = .next t ∧ t.reply = some .continue) ∧
    (∃ t, step (placed 0x00EE State.reset) = .next t ∧ t.reply = some .stackUnderflow) ∧
    ∃ t, step (placed 0x00EE { State.reset with sp := 1 }) = .next t ∧ t.reply = some .continue :=
  ⟨⟨_, rfl, rfl⟩, ⟨_, rfl, rfl⟩, ⟨_, rfl, rfl⟩, ⟨_, rfl, rfl⟩, ⟨_, rfl, rfl⟩, ⟨_, rfl, rfl⟩⟩

theorem witness_OnlyADrawReturnsRedraw :
    (∃ t, step (placed 0xD010 State.reset) = .next t ∧ t.reply = some .redraw) ∧
    ∃ t, step (placed 0x00E0 State.reset) = .next t ∧ t.failed = false ∧ t.reply ≠ some .redraw :=
  ⟨⟨_, rfl, rfl⟩, ⟨_, rfl, by decide, by decide⟩⟩

/-- V3 stays although FX65 writes the registers below it, and V1 stays under 8214. -/
theorem witness_RegistersChangeOnlyThroughTheirWriters :
    (∃ t, exec (.ldVxMem 2) State.reset = .next t ∧ writesReg 3 (.ldVxMem 2) = false ∧ t.reg 2 ≠ State.reset.reg 2) ∧
    ∃ t, exec (.addReg 2 1) (regs [(1, 5)]) = .next t ∧ writesReg 1 (.addReg 2 1) = false ∧ t.reg 2 = 5 :=
  ⟨⟨_, rfl, rfl, by decide⟩, ⟨_, rfl, rfl, by decide⟩⟩

theorem witness_StateChangesOnlyThroughItsWriters :
    ∃ t, exec (.call 0x300) oneFree = .next t ∧ Part.registers ∉ mayWrite (.call 0x300) ∧ t.sp ≠ oneFree.sp :=
  ⟨_, rfl, by decide, by decide⟩

/-- X is not F, with the sums 255 and 256. -/
theorem witness_AddWithCarrySetsSumAndFlag :
    (1 : Reg) ≠ VF ∧ ¬ 255 < ((regs [(1, 0xFE), (2, 1)]).reg 1).toNat + ((regs [(1, 0xFE), (2, 1)]).reg 2).toNat ∧
    255 < ((regs [(1, 0xFF), (2, 1)]).reg 1).toNat + ((regs [(1, 0xFF), (2, 1)]).reg 2).toNat := by decide

/-- X is not F, with equal operands and with a borrow of one. -/
theorem witness_SubtractionsSetDifferenceAndNoBorrow :
    (14 : Reg) ≠ VF ∧ ((regs [(1, 5), (2, 5)]).reg 2).toNat ≤ ((regs [(1, 5), (2, 5)]).reg 1).toNat ∧
    ¬ ((regs [(1, 4), (2, 5)]).reg 2).toNat ≤ ((regs [(1, 4), (2, 5)]).reg 1).toNat := by decide

theorem witness_ShiftsReadTheSecondRegister :
    (0 : Reg) ≠ VF ∧ 128 ≤ ((regs [(2, 0x80)]).reg 2).toNat ∧ ¬ 128 ≤ ((regs [(2, 0x7F)]).reg 2).toNat := by decide

theorem witness_RandomTakesOneByteAndMasksIt : (0x0F : Byte).getLsbD 4 = false ∧ (2 : Reg) ≠ 3 := by decide

theorem witness_RegisterSkipsAdvanceByTwoMore : (0x1 : BitVec 4) ≠ 0 ∧ (0xF : BitVec 4) ≠ 0 := by decide

/-- The key of V5 = 1F is F, of V5 = 10 it is 0. -/
theorem witness_KeySkipsTestTheSelectedKey :
    (15 : KeyIndex).val = ((regs [(5, 0x1F)]).reg 5).toNat % 16 ∧ (0 : KeyIndex).val = ((regs [(5, 0x10)]).reg 5).toNat % 16 := by
  decide

theorem witness_CallPushesTheReturnAddress :
    oneFree.sp.val < 16 ∧ (14 < 16 ∧ 14 ≠ oneFree.sp.val) ∧ full.sp.val = 16 := by decide

theorem witness_ReturnPopsTheLastEntry : 0 < ({ State.reset with sp := 1 } : State).sp.val ∧ 0 < full.sp.val := by decide

theorem witness_FailedPushOrPopLeavesTheStack : full.sp.val = 16 ∧ State.reset.sp.val = 0 := by decide

/-- The call at the last free entry, and a state with its stack but other registers and another pc. -/
theorem witness_ReturnGoesBackToTheCall :
    ∃ t u : State, exec (.call 0x300) oneFree = .next t ∧ t.failed = false ∧ u.sp = t.sp ∧ u.stack = t.stack ∧ u.pc ≠ t.pc :=
  ⟨_, { oneFree with stack := oneFree.stack.set 15 0x200, sp := 16, pc := 0x456 }, rfl, rfl, rfl, rfl, by decide⟩

theorem witness_StackIsLastInFirstOut :
    State.reset.sp.val + (List.replicate 16 (0x202 : Addr)).length ≤ 16 ∧
    16 < State.reset.sp.val + (List.replicate 17 (0x202 : Addr)).length ∧ 16 < full.sp.val + [(0x202 : Addr)].length := by decide

theorem witness_MachineCallIsADecodeFailure :
    (0x1E1 : Addr).extractLsb' 0 8 ≠ 0xE0#8 ∧ (0x1E1 : Addr).extractLsb' 0 8 ≠ 0xEE#8 := by decide

/-- The sums 65535 and 65536. -/
theorem witness_AddToIndexFlagsSixteenBitOverflow :
    ¬ 65535 < ({ regs [(0, 1)] with i := 0xFFFE } : State).i.toNat + ((regs [(0, 1)]).reg 0).toNat ∧
    65535 < ({ regs [(0, 1)] with i := 0xFFFF } : State).i.toNat + ((regs [(0, 1)]).reg 0).toNat ∧ (14 : Reg) ≠ VF := by decide

/-- Canonical memory, I at the last address, and the nearest addresses that FX33 does not store to. -/
theorem witness_DecimalDigitsAreStoredAtIndex :
    ({ stored with i := 0x0FFF } : State).MemoryCanonical ∧
    (∀ k < 3, 0xFFE % 4096 ≠ (0x0FFF + k) % 4096) ∧ ∀ k < 3, 2 % 4096 ≠ (0x0FFF + k) % 4096 := by decide

/-- FX55 with X = F from FF8: registers 0 and F, and the nearest addresses outside the block. -/
theorem witness_StoreRegistersWritesTheBlock :
    ({ stored with i := 0x0FF8 } : State).MemoryCanonical ∧ (15 : Reg) ≤ 15 ∧ (0 : Reg) ≤ 0 ∧
    (∀ r : Reg, r ≤ 15 → 0xFF7 % 4096 ≠ (0x0FF8 + r.val) % 4096) ∧ ∀ r : Reg, r ≤ 15 → 0x008 % 4096 ≠ (0x0FF8 + r.val) % 4096 := by
  decide

theorem witness_LoadRegistersReadsTheBlock : (2 : Reg) ≤ 2 ∧ (2 : Reg) < 3 ∧ (15 : Reg) ≤ 15 := by decide

/-- I = 1200 addresses the byte at pc = 200. -/
theorem witness_StoredWordIsFetchedNext :
    ∃ t, ({ stored with i := 0x1200 } : State).MemoryCanonical ∧ 1 ≤ (1 : Reg).val ∧
      ({ stored with i := 0x1200 } : State).i.toNat % 4096 = ({ stored with i := 0x1200 } : State).pc.toNat ∧
      exec (.ldMemVx 1) { stored with i := 0x1200 } = .next t :=
  ⟨_, by decide, by decide, by decide, rfl⟩

/-- Glyph 0 at the corner (63, 31): a covered pixel that wrapped, and one that is not covered. -/
theorem witness_DrawInvertsTheSpritesPixels_covers :
    SpriteCovers State.reset 63 31 5 2 0 := ⟨1, 3, by decide, by decide, by decide, by decide, by decide⟩

/-- No byte at 300 has a bit set, so nothing is covered. -/
theorem witness_DrawInvertsTheSpritesPixels_leaves :
    ¬ SpriteCovers { State.reset with i := 0x300 } 63 31 1 0 0 := by
  rintro ⟨r, b, hr, -, h, -, -⟩
  obtain rfl : r = 0 := by omega
  rw [show State.memRead { State.reset with i := 0x300 } (({ State.reset with i := 0x300 } : State).i.toNat + 0) = 0 by decide] at h
  simp at h

/-- The flag's two clauses: a covered pixel that is set, and a display with none set. -/
theorem witness_DrawInvertsTheSpritesPixels_flag :
    (∃ px py, SpriteCovers (lit (0, 0) State.reset) 0 0 5 px py ∧ (lit (0, 0) State.reset).pixel px py = true) ∧
    ∀ px py, SpriteCovers State.reset 0 0 5 px py → State.reset.pixel px py = false :=
  ⟨⟨0, 0, ⟨0, 0, by decide, by decide, by decide, by decide, by decide⟩, by decide⟩, fun px py _ => Display.pixel_blank (px, py)⟩

/-- A draw that sets a pixel, and one that only clears what it covers. -/
theorem witness_DrawingTwiceRestoresTheDisplay :
    (∃ t, (0 : Reg) ≠ VF ∧ (1 : Reg) ≠ VF ∧ exec (.drw 0 1 5) State.reset = .next t ∧
      State.reset.pixel 0 0 = false ∧ t.pixel 0 0 = true) ∧
    ∃ t, exec (.drw 0 1 0) State.reset = .next t ∧ ∀ px py, ¬ (State.reset.pixel px py = false ∧ t.pixel px py = true) :=
  ⟨⟨_, by decide, by decide, rfl, by decide, by decide⟩, ⟨_, rfl, fun px py h =>
      absurd (h.1.symm.trans ((State.pixel_congr rfl px py).symm.trans h.2)) (by decide)⟩⟩

/-- The tallest sprite, and the eight pixels of a row that wraps in another order. -/
theorem witness_SpriteTouchesNoPixelTwice :
    (List.replicate 15 (0xFF : Byte)).length ≤ 15 ∧
    ∃ ps : List Pixel, ps.Perm (spritePixels 60 31 0 [0xFF]) ∧ ps ≠ spritePixels 60 31 0 [0xFF] :=
  ⟨by decide, _, List.reverse_perm _, by decide⟩

theorem witness_KeyWaitArmsWaitsAndAcknowledges :
    State.reset.wait = .idle ∧ ({ State.reset with wait := .armed 15 } : State).wait = .armed 15 ∧
    ({ State.reset with wait := .captured 15 } : State).wait = .captured 15 := by decide

/-- The capture's clause, and the three ways into the other. -/
theorem witness_PressCapturesOnlyWhileArmed :
    (({ State.reset with wait := .armed 15 } : State).wait = .armed 15 ∧ ({ State.reset with wait := .armed 15 } : State).key 15 = false) ∧
    (held 15 { State.reset with wait := .armed 15 }).key 15 = true ∧
    (∀ r, State.reset.wait ≠ .armed r) ∧ ∀ r, ({ State.reset with wait := .captured 7 } : State).wait ≠ .armed r := by decide

theorem witness_KeyIndexAboveFifteenIsRefused :
    16 ≤ 16 ∧ (∀ k p, Transaction.setKey 15 true = .setKey k p → k < 16) ∧ ∀ k p, Transaction.reset = .setKey k p → k < 16 :=
  ⟨le_refl _, fun k p h => by cases h; decide, fun k p h => by cases h⟩

/-- Canonical memory; the longest blob that fits, and one byte more; the addresses on each side of a blob of two bytes. -/
theorem witness_LoadCopiesTheBlobOrNothing :
    stored.MemoryCanonical ∧ (List.replicate 3584 (0xAB : Byte)).length ≤ 3584 ∧ 3584 < (List.replicate 3585 (0xAB : Byte)).length ∧
    0x1FF % 4096 < 0x200 ∧ 0x200 + 2 ≤ 0x202 % 4096 :=
  ⟨by decide, by rw [List.length_replicate], by rw [List.length_replicate]; decide, by decide, by decide⟩

/-- Canonical memory with a glyph byte overwritten, and the first address behind the glyphs. -/
theorem witness_ResetReinstallsTheGlyphs : stored.MemoryCanonical ∧ stored.memRead 0 = 0xCD ∧ Params.fontData[0] = 0xF0 := by decide
theorem witness_ResetValuesAndWhatItKeeps : stored.MemoryCanonical ∧ Params.fontBase + 80 ≤ 80 % 4096 ∧ 15 < 16 := by decide
theorem witness_ConstructedMachine : Params.fontBase + 80 ≤ 80 % 4096 ∧ State.reset.memRead 79 = 0x80 ∧ State.reset.memRead 80 = 0 := by
  decide

theorem witness_CanonicalMemoriesThatReadAlikeAreEqual :
    Memory.wf stored.mem ∧ Memory.wf (bytesAt 0xFFF [0xAB] (bytesAt 0 [0xCD] State.reset)).mem ∧
    ∀ a < 4096, stored.mem.read a = (bytesAt 0xFFF [0xAB] (bytesAt 0 [0xCD] State.reset)).mem.read a :=
  ⟨by decide, by decide, fun a _ => by rw [show (bytesAt 0xFFF [0xAB] (bytesAt 0 [0xCD] State.reset)).mem = stored.mem by decide]⟩

/-- The invariant with no wait, with an armed one and with a captured key, each with the step it takes. -/
theorem witness_StepKeepsTheInvariant :
    (∃ t, (placed 0x6A05 State.reset).Inv ∧ step (placed 0x6A05 State.reset) = .next t) ∧
    (∃ t, (placed 0xF50A { State.reset with wait := .armed 5 }).Inv ∧
      step (placed 0xF50A { State.reset with wait := .armed 5 }) = .next t) ∧
    ∃ t, (placed 0xF50A { regs [(5, 7)] with wait := .captured 7 }).Inv ∧
      step (placed 0xF50A { regs [(5, 7)] with wait := .captured 7 }) = .next t :=
  ⟨⟨_, ⟨by decide, trivial⟩, rfl⟩, ⟨_, ⟨by decide, rfl⟩, rfl⟩, ⟨_, ⟨by decide, 5, rfl, by decide⟩, rfl⟩⟩

theorem witness_TransactionsKeepTheInvariant :
    ∃ t, (placed 0xF50A { State.reset with wait := .armed 5 }).Inv ∧
      transact (.setKey 7 true) (placed 0xF50A { State.reset with wait := .armed 5 }) = .next t ∧
      (∀ bytes, Transaction.setKey 7 true ≠ .load bytes) ∧ t.wait = .captured 7 :=
  ⟨_, ⟨by decide, rfl⟩, rfl, (fun bytes h => by cases h), by decide⟩

theorem witness_KeyWaitHandshakeCompletes :
    decode (placed 0xF50A State.reset).fetchWord = .ok (.ldVxK 5) ∧ (placed 0xF50A State.reset).wait = .idle ∧
    (placed 0xF50A State.reset).key 15 = false := ⟨rfl, rfl, by decide⟩

theorem witness_SoundTimerIsNeverRead : ∃ t, step (placed 0xF318 (regs [(3, 5)])) = .next t ∧ t.st = 5 := ⟨_, rfl, by decide⟩

/-- pc at the last address: the word lies at FFF and 000. -/
theorem witness_PlacedInstructionIsTheOneThatRuns :
    ({ stored with pc := 0xFFF } : State).MemoryCanonical ∧ (Instr.ldVxMem 15).wellFormed = true ∧
    1 % 4096 ≠ ({ stored with pc := 0xFFF } : State).pc.toNat ∧
    1 % 4096 ≠ (({ stored with pc := 0xFFF } : State).pc.toNat + 1) % 4096 := by decide

end Sys2Proof.Tests
end

/-! Proofs of the call-stack statements O24 and O26: what leaves every part of the state alone but the listed ones, then
the three outcomes of a call and a return that they speak of. -/

namespace Sys2Proof.Machine

/-! ### Rules for SameExcept -/

@[simp] theorem SameExcept.refl (ps : List Part) (s : State) : SameExcept ps s s := by
  intro p _
  cases p <;> simp [Part.Same]

/-- The reply is not a part, so returning one keeps every part (R90). -/
theorem SameExcept.returning {ps : List Part} {s t : State} (h : SameExcept ps s t) (r : Reply) :
    SameExcept ps s (t.returning r) := by
  intro p hp
  have same := h p hp
  cases p <;> exact same

/-- A write of pc keeps every part but pc. -/
theorem SameExcept.setPc {ps : List Part} {s t : State} (h : SameExcept ps s t) (hpc : .programCounter ∈ ps) (a : Addr) :
    SameExcept ps s (t.setPc a) := by
  intro p hp
  have same := h p hp
  cases p
  case programCounter => exact absurd hpc hp
  all_goals exact same

/-- A push keeps every part but SP and the entries (R27). -/
theorem SameExcept.setStack {ps : List Part} {s t : State} (h : SameExcept ps s t) (hsp : .stackPointer ∈ ps)
    (hstack : .stackEntries ∈ ps) (entries : Vector Addr 16) (sp : Fin 17) :
    SameExcept ps s { t with stack := entries, sp := sp } := by
  intro p hp
  have same := h p hp
  cases p
  case stackPointer => exact absurd hsp hp
  case stackEntries => exact absurd hstack hp
  all_goals exact same

/-! ### The outcomes of a call, and the failed return -/

/-- A call with an entry free pushes pc and jumps (R103). -/
theorem exec_call_of_sp_lt (nnn : Addr) {s : State} (h : s.sp.val < 16) :
    exec (.call nnn) s = done (State.setPc
      { s with stack := s.stack.set s.sp.val s.pc h, sp := ⟨s.sp.val + 1, by omega⟩ } nnn) := by
  obtain ⟨hfull, -⟩ | ⟨_, e⟩ := execCall_cases nnn s
  · omega
  · exact e

/-- A call with 16 entries held returns StackOverflow and does nothing else (R29, R103, R182). -/
theorem exec_call_of_full (nnn : Addr) {s : State} (h : s.sp.val = 16) :
    exec (.call nnn) s = .next (s.returning .stackOverflow) := by
  obtain ⟨-, e⟩ | ⟨hlt, -⟩ := execCall_cases nnn s
  · exact e
  · omega

/-- A return with no entry held returns StackUnderflow and does nothing else (R29, R101, R183). -/
theorem exec_ret_of_empty {s : State} (h : s.sp.val = 0) : exec .ret s = .next (s.returning .stackUnderflow) := by
  obtain ⟨-, e⟩ | ⟨hpos, -⟩ := execRet_cases s
  · exact e
  · omega

/-- Class 2 is the call of its twelve low bits (R74). -/
theorem decode_formatA_call (nnn : Addr) : decode (formatA 0x2 nnn) = .ok (.call nnn) := by
  simp [decode]

/-! ### The statements -/

/-- Settles O24, from the two outcomes of a call: below 16 entries the entry at SP is the only one the push sets, and with 16
the next state differs from the old one in its reply alone. -/
theorem callPushesTheReturnAddress : Obligations.CallPushesTheReturnAddress := by
  unfold Obligations.CallPushesTheReturnAddress
  refine fun nnn => ⟨decode_formatA_call nnn, fun s => ⟨fun h => ?_, fun hfull => ?_⟩⟩
  · refine ⟨_, exec_call_of_sp_lt nnn h, rfl, rfl, Vector.getElem_set_self h, fun k hk hne => ?_, ?_, rfl⟩
    · exact Vector.getElem_set_ne h hk hne.symm
    · exact (((SameExcept.refl _ s).setStack (by simp) (by simp) _ _).setPc (by simp) nnn).returning _
  · exact ⟨_, exec_call_of_full nnn hfull, rfl, (SameExcept.refl [] s).returning _⟩

/-- Settles O26: a failed call or return only adds its reply to the state, and the reply is no part of the stack. -/
theorem failedPushOrPopLeavesTheStack : Obligations.FailedPushOrPopLeavesTheStack := by
  unfold Obligations.FailedPushOrPopLeavesTheStack
  refine fun s => ⟨fun hfull nnn => ?_, fun hempty => ?_⟩
  · exact ⟨_, exec_call_of_full nnn hfull, rfl, rfl, rfl⟩
  · exact ⟨_, exec_ret_of_empty hempty, rfl, rfl, rfl⟩

end Sys2Proof.Machine

/-! Proof of the encoding statement O4: which sub-codes classes 5, 8, 9, E and F reject, and that the other classes reject
no word (R74 to R80). -/

namespace Sys2Proof

open Machine

/-! ### The classes -/

/-- Class 5 is 5XY0 alone (R76). -/
theorem decode_of_class5 {w : Word} (h : opClass w = 0x5) :
    decode w = if bitsN w = 0 then .ok (.seReg (fieldX w) (fieldY w)) else .error (.class5SubCode w) := by
  simp [decode, h]

/-- Class 9 is 9XY0 alone (R76). -/
theorem decode_of_class9 {w : Word} (h : opClass w = 0x9) :
    decode w = if bitsN w = 0 then .ok (.sneReg (fieldX w) (fieldY w)) else .error (.class9SubCode w) := by
  simp [decode, h]

theorem decode_of_class8 {w : Word} (h : opClass w = 0x8) : decode w = decodeClass8 w := by simp [decode, h]

theorem decode_of_classE {w : Word} (h : opClass w = 0xE) : decode w = decodeClassE w := by simp [decode, h]

theorem decode_of_classF {w : Word} (h : opClass w = 0xF) : decode w = decodeClassF w := by simp [decode, h]

/-- The classes in which some sub-code selects no instruction (R76 to R79). -/
def rejectingClasses : List (BitVec 4) := [0x5, 0x8, 0x9, 0xE, 0xF]

/-- Every word of the other classes decodes, those of class 0 among them (R74, R75, R100). -/
theorem decode_ok_of_not_rejectingClass {w : Word} (h : opClass w ∉ rejectingClasses) : ∃ i, decode w = .ok i := by
  have hlt := (opClass w).isLt
  have hother : (opClass w).toNat ≠ 0x5 ∧ (opClass w).toNat ≠ 0x8 ∧ (opClass w).toNat ≠ 0x9 ∧ (opClass w).toNat ≠ 0xE ∧
      (opClass w).toNat ≠ 0xF := by
    simpa [rejectingClasses, BitVec.toNat_eq] using h
  unfold decode
  split
  case h_6 | h_9 | h_10 | h_15 => omega
  case h_16 => simp only [imp_false] at *; omega
  all_goals exact ⟨_, rfl⟩

/-! ### The rejected sub-codes of a class -/

theorem decodeClass8_rejects_iff (w : Word) :
    (∃ e, decodeClass8 w = .error e) ↔ bitsN w ∈ ([0x8, 0x9, 0xA, 0xB, 0xC, 0xD, 0xF] : List (BitVec 4)) := by
  have hlow := (bitsN w).isLt
  unfold decodeClass8
  split
  case h_10 => simp only [imp_false] at *; simp [BitVec.toNat_eq]; omega
  all_goals simp [BitVec.toNat_eq, *]

theorem decodeClassE_rejects_iff (w : Word) :
    (∃ e, decodeClassE w = .error e) ↔ fieldNN w ∉ ([0x9E, 0xA1] : List Byte) := by
  unfold decodeClassE
  split <;> simp_all [BitVec.toNat_eq]

theorem decodeClassF_rejects_iff (w : Word) :
    (∃ e, decodeClassF w = .error e) ↔
      fieldNN w ∉ ([0x07, 0x0A, 0x15, 0x18, 0x1E, 0x29, 0x33, 0x55, 0x65] : List Byte) := by
  unfold decodeClassF
  split <;> simp_all [BitVec.toNat_eq]

/-- Settles O4, class by class: each of the five classes rejects the sub-codes its own lemma lists, and a word of another class
decodes. -/
theorem rejectedSubCodesAreTheListedOnes : Obligations.RejectedSubCodesAreTheListedOnes := by
  unfold Obligations.RejectedSubCodesAreTheListedOnes
  intro w
  by_cases hclass : opClass w ∈ rejectingClasses
  · have hcases : opClass w = 0x5 ∨ opClass w = 0x8 ∨ opClass w = 0x9 ∨ opClass w = 0xE ∨ opClass w = 0xF := by
      simpa [rejectingClasses] using hclass
    obtain h | h | h | h | h := hcases
    · by_cases hn : bitsN w = 0#4 <;> simp [decode_of_class5 h, h, hn]
    · simp [decode_of_class8 h, decodeClass8_rejects_iff, h]
    · by_cases hn : bitsN w = 0#4 <;> simp [decode_of_class9 h, h, hn]
    · simp [decode_of_classE h, decodeClassE_rejects_iff, h]
    · simp [decode_of_classF h, decodeClassF_rejects_iff, h]
  · obtain ⟨i, hi⟩ := decode_ok_of_not_rejectingClass hclass
    have hother : opClass w ≠ 0x5#4 ∧ opClass w ≠ 0x8#4 ∧ opClass w ≠ 0x9#4 ∧ opClass w ≠ 0xE#4 ∧ opClass w ≠ 0xF#4 := by
      simpa [rejectingClasses] using hclass
    simp [hi, hother]

end Sys2Proof

/-! Proof of the cycle statement O10: a draw returns Redraw, and every other step returns Continue or a failure (R94). -/

namespace Sys2Proof.Machine

/-! ### What a transaction returned -/

/-- Redraw is a success (R94). -/
theorem State.reply_ne_redraw_of_failed {s : State} (h : s.failed = true) : s.reply ≠ some .redraw := by
  intro hr
  simp [State.failed, hr, Reply.isFailure] at h

theorem reply_of_done {s t : State} (h : done s = .next t) : t.reply = some .continue := by
  cases h
  rfl

theorem failed_of_returning {s t : State} {r : Reply} (hr : r.isFailure = true)
    (h : (.next (s.returning r) : Answer) = .next t) : t.failed = true := by
  cases h
  exact hr

/-! ### What a meaning and a step return -/

/-- A draw returns Redraw, with no case in which it fails (R94, R158). -/
theorem reply_of_exec_drw {x y : Reg} {n : Fin 16} {s t : State} (h : exec (.drw x y n) s = .next t) :
    t.reply = some .redraw := by
  cases h
  rfl

/-- Every instruction but the draw returns Continue or fails (R94): a machine call always fails, a return and a call fail in
one of their two cases, and no other instruction can. -/
theorem reply_continue_or_failed_of_exec {i : Instr} {s t : State} (hi : ∀ x y n, i ≠ .drw x y n)
    (h : exec i s = .next t) : t.reply = some .continue ∨ t.failed = true := by
  cases i
  case drw x y n => exact absurd rfl (hi x y n)
  case sys nnn => exact .inr (failed_of_returning rfl h)
  case ret =>
    obtain ⟨-, e⟩ | ⟨_, e⟩ := execRet_cases s
    · exact .inr (failed_of_returning rfl (e.symm.trans h))
    · exact .inl (reply_of_done (e.symm.trans h))
  case call nnn =>
    obtain ⟨-, e⟩ | ⟨_, e⟩ := execCall_cases nnn s
    · exact .inr (failed_of_returning rfl (e.symm.trans h))
    · exact .inl (reply_of_done (e.symm.trans h))
  case ldVxK x =>
    obtain ⟨-, e⟩ | ⟨_, -, e⟩ | ⟨_, -, e⟩ := execLdVxK_cases x s <;> exact .inl (reply_of_done (e.symm.trans h))
  all_goals exact .inl (reply_of_done h)

/-- A step over any word but DXYN returns Continue or fails, a rejected word included (R94, R97). -/
theorem reply_continue_or_failed_of_step {s t : State} (hw : ∀ x y n, decode s.fetchWord ≠ .ok (.drw x y n))
    (h : step s = .next t) : t.reply = some .continue ∨ t.failed = true := by
  obtain ⟨i, hi, e⟩ | ⟨_, -, e⟩ := step_cases s
  · refine reply_continue_or_failed_of_exec (fun x y n hdrw => hw x y n ?_) (e.symm.trans h)
    rw [hi, hdrw]
  · exact .inr (failed_of_returning rfl (e.symm.trans h))

theorem reply_of_step_drw {s t : State} {x y : Reg} {n : Fin 16} (hw : decode s.fetchWord = .ok (.drw x y n))
    (h : step s = .next t) : t.reply = some .redraw := by
  simp only [step, hw] at h
  exact reply_of_exec_drw h

/-! ### The statement -/

/-- Settles O10: a step over DXYN returns Redraw, and over any other word Continue or a failure, neither of which is Redraw. -/
theorem onlyADrawReturnsRedraw : Obligations.OnlyADrawReturnsRedraw := by
  unfold Obligations.OnlyADrawReturnsRedraw
  intro s t h
  by_cases hdraw : ∃ x y n, decode s.fetchWord = .ok (.drw x y n)
  · obtain ⟨x, y, n, hw⟩ := hdraw
    have hredraw := reply_of_step_drw hw h
    exact ⟨⟨fun _ => ⟨x, y, n, hw⟩, fun _ => hredraw⟩, fun _ hne => absurd hredraw hne⟩
  · have hother := reply_continue_or_failed_of_step (fun x y n hw => hdraw ⟨x, y, n, hw⟩) h
    have hne : t.reply ≠ some .redraw := by
      obtain hcontinue | hfailed := hother
      · simp [hcontinue]
      · exact State.reply_ne_redraw_of_failed hfailed
    refine ⟨iff_of_false hne hdraw, fun hok _ => hother.resolve_right ?_⟩
    simp [hok]

end Sys2Proof.Machine

/-! Proof of the control-transfer statement O23: where BNNN lands (R104). -/

namespace Sys2Proof.Machine

/-- Class B is the indexed jump of its twelve low bits, bits 11:8 among them (R74). -/
theorem decode_formatA_jpV0 (nnn : Addr) : decode (formatA 0xB nnn) = .ok (.jpV0 nnn) := by
  simp [decode]

/-- The meaning of BNNN is one write of pc (R104). -/
theorem exec_jpV0 (nnn : Addr) (s : State) :
    exec (.jpV0 nnn) s = done (s.setPc (indexedTarget nnn (s.reg 0))) := rfl

/-- The 12-bit sum is the sum of the numbers modulo 4096: the register's byte is widened without loss (R104). -/
theorem toNat_indexedTarget (nnn : Addr) (v0 : Byte) :
    (indexedTarget nnn v0).toNat = (nnn.toNat + v0.toNat) % 4096 := by
  have widened : (v0.setWidth 12).toNat = v0.toNat := BitVec.toNat_setWidth_of_le (by decide)
  rw [indexedTarget, BitVec.toNat_add, widened]

/-- Settles O23: the next state is the old one with pc at the indexed target and Continue returned. -/
theorem indexedJumpAddsRegisterZero : Obligations.IndexedJumpAddsRegisterZero := by
  unfold Obligations.IndexedJumpAddsRegisterZero
  refine fun nnn => ⟨decode_formatA_jpV0 nnn, fun s => ⟨_, exec_jpV0 nnn s, ?_, ?_, rfl⟩⟩
  · exact toNat_indexedTarget nnn (s.reg 0)
  · exact ((SameExcept.refl _ s).setPc (by simp) _).returning _

end Sys2Proof.Machine

/-! Proof of the skip statement O20: what a skip does for any condition, then the four comparisons of registers. -/

namespace Sys2Proof.Machine

/-! ### A skip, whatever its condition -/

/-- A skip keeps every part but pc, taken or not (R110). -/
theorem SameExcept.skipIf {ps : List Part} {s t : State} (h : SameExcept ps s t) (hpc : .programCounter ∈ ps) (c : Bool) :
    SameExcept ps s (t.skipIf c) := by
  obtain ⟨-, e⟩ | ⟨-, e⟩ := t.skipIf_cases c
  · rw [e]
    exact h.setPc hpc _
  · rwa [e]

/-- The next state of an instruction that is a skip under the condition `c`, with its pc in the caller's spelling (R110). -/
theorem exec_next_of_skipIf {i : Instr} {s : State} {c : Bool} {target : Addr} (he : exec i s = done (s.skipIf c))
    (htarget : (if c then s.pc + 2 else s.pc) = target) :
    ∃ t, exec i s = .next t ∧ t.pc = target ∧ SameExcept [.programCounter] s t ∧ t.reply = some .continue :=
  ⟨_, he, (s.skipIf_pc c).trans htarget, ((SameExcept.refl _ s).skipIf (by simp) c).returning _, rfl⟩

/-! ### The four register skips and their words -/

theorem exec_seImm (x : Reg) (nn : Byte) (s : State) : exec (.seImm x nn) s = done (s.skipIf (s.reg x == nn)) := rfl

theorem exec_sneImm (x : Reg) (nn : Byte) (s : State) : exec (.sneImm x nn) s = done (s.skipIf (s.reg x != nn)) := rfl

theorem exec_seReg (x y : Reg) (s : State) : exec (.seReg x y) s = done (s.skipIf (s.reg x == s.reg y)) := rfl

theorem exec_sneReg (x y : Reg) (s : State) : exec (.sneReg x y) s = done (s.skipIf (s.reg x != s.reg y)) := rfl

theorem decode_formatR_seImm (x : Reg) (nn : Byte) : decode (formatR 0x3 x nn) = .ok (.seImm x nn) := by
  simp [decode]

theorem decode_formatR_sneImm (x : Reg) (nn : Byte) : decode (formatR 0x4 x nn) = .ok (.sneImm x nn) := by
  simp [decode]

/-- A class 5 word is 5XY0 or rejected, by its low nibble (R76). -/
theorem decode_formatP_class5 (x y : Reg) (n : BitVec 4) :
    decode (formatP 0x5 x y n) = if n = 0 then .ok (.seReg x y) else .error (.class5SubCode (formatP 0x5 x y n)) := by
  simpa using decode_of_class5 (opClass_formatP 0x5 x y n)

/-- A class 9 word is 9XY0 or rejected, by its low nibble (R76). -/
theorem decode_formatP_class9 (x y : Reg) (n : BitVec 4) :
    decode (formatP 0x9 x y n) = if n = 0 then .ok (.sneReg x y) else .error (.class9SubCode (formatP 0x9 x y n)) := by
  simpa using decode_of_class9 (opClass_formatP 0x9 x y n)

/-! ### The statement -/

/-- Settles O20: classes 5 and 9 decode by their low nibble, and each of the four meanings is a skip whose condition is its
comparison. -/
theorem registerSkipsAdvanceByTwoMore : Obligations.RegisterSkipsAdvanceByTwoMore := by
  unfold Obligations.RegisterSkipsAdvanceByTwoMore
  refine fun x y nn => ⟨⟨?_, ?_, ?_, ?_⟩, fun n hn => ⟨?_, ?_⟩, fun s => ⟨?_, ?_, ?_, ?_⟩⟩
  · exact decode_formatR_seImm x nn
  · exact decode_formatR_sneImm x nn
  · exact (decode_formatP_class5 x y 0).trans (if_pos rfl)
  · exact (decode_formatP_class9 x y 0).trans (if_pos rfl)
  · exact ⟨_, (decode_formatP_class5 x y n).trans (if_neg hn)⟩
  · exact ⟨_, (decode_formatP_class9 x y n).trans (if_neg hn)⟩
  · exact exec_next_of_skipIf (exec_seImm x nn s) (by simp)
  · exact exec_next_of_skipIf (exec_sneImm x nn s) (by simp)
  · exact exec_next_of_skipIf (exec_seReg x y s) (by simp)
  · exact exec_next_of_skipIf (exec_sneReg x y s) (by simp)

end Sys2Proof.Machine

/-! Proofs of the arithmetic and logic statements O13, O14 and O15: what an instruction that only writes V[X] leaves alone,
then the words and meanings of 6XNN, 7XNN and 8XY0 to 8XY3. -/

namespace Sys2Proof.Machine

/-! ### Rules for a write of a register -/

/-- A write of a register keeps every part but the registers. -/
theorem SameExcept.setReg {ps : List Part} {s t : State} (h : SameExcept ps s t) (hregs : .registers ∈ ps) (x : Reg) (b : Byte) :
    SameExcept ps s (t.setReg x b) := by
  intro p hp
  have same := h p hp
  cases p
  case registers => exact absurd hregs hp
  all_goals exact same

theorem OnlyRegisters.refl (rs : List Reg) (s : State) : OnlyRegisters rs s s :=
  ⟨fun _ _ => rfl, SameExcept.refl _ s⟩

/-- Returning a reply keeps every register and every other part (R90). -/
theorem OnlyRegisters.returning {rs : List Reg} {s t : State} (h : OnlyRegisters rs s t) (r : Reply) :
    OnlyRegisters rs s (t.returning r) := by
  obtain ⟨same, frame⟩ := h
  exact ⟨same, frame.returning r⟩

/-- A write of a listed register keeps the registers that are not listed, and every other part. -/
theorem OnlyRegisters.setReg {rs : List Reg} {s t : State} (h : OnlyRegisters rs s t) {x : Reg} (hx : x ∈ rs) (b : Byte) :
    OnlyRegisters rs s (t.setReg x b) := by
  obtain ⟨same, frame⟩ := h
  refine ⟨fun r hr => ?_, frame.setReg (by simp) x b⟩
  have hne : r ≠ x := fun e => hr (e ▸ hx)
  rw [State.reg_setReg, if_neg hne, same r hr]

/-- The next state of an instruction whose whole meaning is `V[X] <- b` (R94, R120 to R125). -/
theorem exec_next_of_setReg {i : Instr} {s : State} {x : Reg} {b : Byte} (he : exec i s = done (s.setReg x b)) :
    ∃ t, exec i s = .next t ∧ t.reg x = b ∧ OnlyRegisters [x] s t ∧ t.reply = some .continue :=
  ⟨_, he, (s.reg_setReg x x b).trans (if_pos rfl), ((OnlyRegisters.refl [x] s).setReg (by simp) b).returning _, rfl⟩

/-- The same, with the byte written given by its bits. -/
theorem exec_next_of_setReg_bits {i : Instr} {s : State} {x : Reg} {b : Byte} {bit : Nat → Bool}
    (he : exec i s = done (s.setReg x b)) (hb : ∀ k, b.getLsbD k = bit k) :
    ∃ t, exec i s = .next t ∧ (∀ k, (t.reg x).getLsbD k = bit k) ∧ OnlyRegisters [x] s t ∧ t.reply = some .continue := by
  obtain ⟨t, hnext, hreg, frame, hreply⟩ := exec_next_of_setReg he
  exact ⟨t, hnext, fun k => hreg ▸ hb k, frame, hreply⟩

/-! ### The words and their meanings -/

theorem decode_formatR_ldImm (x : Reg) (nn : Byte) : decode (formatR 0x6 x nn) = .ok (.ldImm x nn) := by
  simp [decode]

theorem decode_formatR_addImm (x : Reg) (nn : Byte) : decode (formatR 0x7 x nn) = .ok (.addImm x nn) := by
  simp [decode]

/-- A class 8 word is read by its low nibble (R77). -/
theorem decode_formatP_class8 (x y : Reg) (n : BitVec 4) :
    decode (formatP 0x8 x y n) = decodeClass8 (formatP 0x8 x y n) :=
  decode_of_class8 (opClass_formatP 0x8 x y n)

theorem decode_formatP_ldReg (x y : Reg) : decode (formatP 0x8 x y 0x0) = .ok (.ldReg x y) := by
  rw [decode_formatP_class8]
  simp [decodeClass8]

theorem decode_formatP_orReg (x y : Reg) : decode (formatP 0x8 x y 0x1) = .ok (.orReg x y) := by
  rw [decode_formatP_class8]
  simp [decodeClass8]

theorem decode_formatP_andReg (x y : Reg) : decode (formatP 0x8 x y 0x2) = .ok (.andReg x y) := by
  rw [decode_formatP_class8]
  simp [decodeClass8]

theorem decode_formatP_xorReg (x y : Reg) : decode (formatP 0x8 x y 0x3) = .ok (.xorReg x y) := by
  rw [decode_formatP_class8]
  simp [decodeClass8]

theorem exec_ldImm (x : Reg) (nn : Byte) (s : State) : exec (.ldImm x nn) s = done (s.setReg x nn) := rfl

theorem exec_addImm (x : Reg) (nn : Byte) (s : State) : exec (.addImm x nn) s = done (s.setReg x (s.reg x + nn)) := rfl

theorem exec_ldReg (x y : Reg) (s : State) : exec (.ldReg x y) s = done (s.setReg x (s.reg y)) := rfl

theorem exec_orReg (x y : Reg) (s : State) : exec (.orReg x y) s = done (s.setReg x (s.reg x ||| s.reg y)) := rfl

theorem exec_andReg (x y : Reg) (s : State) : exec (.andReg x y) s = done (s.setReg x (s.reg x &&& s.reg y)) := rfl

theorem exec_xorReg (x y : Reg) (s : State) : exec (.xorReg x y) s = done (s.setReg x (s.reg x ^^^ s.reg y)) := rfl

/-! ### The statements -/

/-- Settles O15: each of the four meanings is one write of V[X], and a bit of an OR, AND or XOR is that of the two bits. -/
theorem registerLogicActsBitByBit : Obligations.RegisterLogicActsBitByBit := by
  unfold Obligations.RegisterLogicActsBitByBit
  refine fun x y => ⟨⟨?_, ?_, ?_, ?_⟩, fun s => ⟨?_, ?_, ?_, ?_⟩⟩
  · exact decode_formatP_ldReg x y
  · exact decode_formatP_orReg x y
  · exact decode_formatP_andReg x y
  · exact decode_formatP_xorReg x y
  · exact exec_next_of_setReg (exec_ldReg x y s)
  · exact exec_next_of_setReg_bits (exec_orReg x y s) fun _ => BitVec.getLsbD_or
  · exact exec_next_of_setReg_bits (exec_andReg x y s) fun _ => BitVec.getLsbD_and
  · exact exec_next_of_setReg_bits (exec_xorReg x y s) fun _ => BitVec.getLsbD_xor

/-- Settles O13: the meaning is the write of NN to V[X]. -/
theorem loadImmediateSetsTheRegister : Obligations.LoadImmediateSetsTheRegister := by
  unfold Obligations.LoadImmediateSetsTheRegister
  exact fun x nn => ⟨decode_formatR_ldImm x nn, fun s => exec_next_of_setReg (exec_ldImm x nn s)⟩

/-- Settles O14: the meaning is one write of V[X], and the 8-bit sum is the sum of the numbers modulo 256. -/
theorem addImmediateWrapsWithoutAFlag : Obligations.AddImmediateWrapsWithoutAFlag := by
  unfold Obligations.AddImmediateWrapsWithoutAFlag
  refine fun x nn => ⟨decode_formatR_addImm x nn, fun s => ?_⟩
  obtain ⟨t, hnext, hreg, frame, hreply⟩ := exec_next_of_setReg (exec_addImm x nn s)
  have hsum : (t.reg x).toNat = ((s.reg x).toNat + nn.toNat) % 256 := by rw [hreg, BitVec.toNat_add]
  exact ⟨t, hnext, hsum, frame, hreply⟩

end Sys2Proof.Machine

/-! Proofs of the index and memory statements O30 and O33: what a write of I and a block of bytes leave alone, then the words
and meanings of ANNN and FX33. -/

namespace Sys2Proof.Machine

/-! ### Rules for a write of I and for a block of bytes -/

/-- A write of I keeps every part but I. -/
theorem SameExcept.setI {ps : List Part} {s t : State} (h : SameExcept ps s t) (hindex : .index ∈ ps) (a : Word) :
    SameExcept ps s (t.setI a) := by
  intro p hp
  have same := h p hp
  cases p
  case index => exact absurd hindex hp
  all_goals exact same

/-- A write of a block of bytes keeps every part but memory. -/
theorem SameExcept.writeBytes {ps : List Part} {s t : State} (h : SameExcept ps s t) (hmem : .memory ∈ ps) (a : Nat)
    (bs : List Byte) : SameExcept ps s (t.writeBytes a bs) := by
  intro p hp
  have same := h p hp
  rw [State.writeBytes_frame]
  cases p
  case memory => exact absurd hmem hp
  all_goals exact same

/-- The next state of an instruction whose whole meaning is the write of a block of bytes at `a`: the bytes of the block, and
every byte outside it as before (R52, R94, R146). -/
theorem exec_next_of_writeBytes {i : Instr} {s : State} {a : Nat} {bs : List Byte} (hs : s.MemoryCanonical)
    (hlen : bs.length ≤ 4096) (he : exec i s = done (s.writeBytes a bs)) :
    ∃ t, exec i s = .next t ∧ (∀ k (hk : k < bs.length), t.memRead (a + k) = bs[k]) ∧
      (∀ c, (∀ k < bs.length, c % 4096 ≠ (a + k) % 4096) → t.memRead c = s.memRead c) ∧
      SameExcept [.memory] s t ∧ t.reply = some .continue := by
  refine ⟨_, he, fun k hk => ?_, fun c hc => ?_, ?_, rfl⟩
  · exact State.memRead_writeBytes_inside hs hlen hk
  · exact State.memRead_writeBytes_outside hs fun k hk => (hc k hk).symm
  · exact ((SameExcept.refl _ s).writeBytes (by simp) a bs).returning _

/-! ### The words, the meanings and their operands -/

/-- Class A is the index load of its twelve low bits (R74). -/
theorem decode_formatA_ldI (nnn : Addr) : decode (formatA 0xA nnn) = .ok (.ldI nnn) := by
  simp [decode]

/-- A class F word is read by its low byte (R79). -/
theorem decode_formatR_classF (x : Reg) (nn : Byte) : decode (formatR 0xF x nn) = decodeClassF (formatR 0xF x nn) :=
  decode_of_classF (opClass_formatR 0xF x nn)

theorem decode_formatR_ldB (x : Reg) : decode (formatR 0xF x 0x33) = .ok (.ldB x) := by
  rw [decode_formatR_classF]
  simp [decodeClassF]

theorem exec_ldI (nnn : Addr) (s : State) : exec (.ldI nnn) s = done (s.setI (indexOfAddr nnn)) := rfl

theorem exec_ldB (x : Reg) (s : State) : exec (.ldB x) s = done (s.writeBytes s.i.toNat (bcdDigits (s.reg x))) := rfl

/-- The address is widened to 16 bits without loss (R140). -/
theorem toNat_indexOfAddr (nnn : Addr) : (indexOfAddr nnn).toNat = nnn.toNat :=
  BitVec.toNat_setWidth_of_le (by decide)

@[simp] theorem length_bcdDigits (b : Byte) : (bcdDigits b).length = 3 := rfl

/-- The digits as numbers: each of the three quotients of a byte fits a byte (R143). -/
theorem toNat_bcdDigits (b : Byte) :
    (bcdDigits b)[0].toNat = b.toNat / 100 ∧ (bcdDigits b)[1].toNat = b.toNat / 10 % 10 ∧
      (bcdDigits b)[2].toNat = b.toNat % 10 := by
  have hb : b.toNat < 256 := b.isLt
  refine ⟨?_, ?_, ?_⟩ <;> exact (BitVec.toNat_ofNat _ _).trans (Nat.mod_eq_of_lt (by omega))

/-! ### The statements -/

/-- Settles O33: the meaning is the write of a block of three bytes at I, and they are the decimal digits. -/
theorem decimalDigitsAreStoredAtIndex : Obligations.DecimalDigitsAreStoredAtIndex := by
  unfold Obligations.DecimalDigitsAreStoredAtIndex
  refine fun x => ⟨decode_formatR_ldB x, fun s hs => ?_⟩
  obtain ⟨t, hnext, inside, outside, frame, hreply⟩ := exec_next_of_writeBytes hs (by simp) (exec_ldB x s)
  obtain ⟨hundreds, tens, units⟩ := toNat_bcdDigits (s.reg x)
  refine ⟨t, hnext, ?_, ?_, ?_, outside, frame, hreply⟩
  · exact (congrArg BitVec.toNat (inside 0 (by simp))).trans hundreds
  · exact (congrArg BitVec.toNat (inside 1 (by simp))).trans tens
  · exact (congrArg BitVec.toNat (inside 2 (by simp))).trans units

/-- Settles O30: the meaning is the write of the widened address to I. -/
theorem setIndexZeroExtendsTheAddress : Obligations.SetIndexZeroExtendsTheAddress := by
  unfold Obligations.SetIndexZeroExtendsTheAddress
  refine fun nnn => ⟨decode_formatA_ldI nnn, fun s => ⟨_, exec_ldI nnn s, ?_, ?_, rfl⟩⟩
  · exact toNat_indexOfAddr nnn
  · exact ((SameExcept.refl _ s).setI (by simp) _).returning _

end Sys2Proof.Machine

/-! Proof of the display statement O40: a sprite's rows fall on different rows of the screen, so no pixel stands twice. -/

namespace Sys2Proof.Machine

/-- A sprite byte and up to 31 bytes below it share no pixel: they lie in different rows of the screen, although the vertical
axis wraps (R152, R154). -/
theorem rowPixels_disjoint_spritePixels (x0 y0 : Byte) (r : Nat) (row : Byte) {rest : List Byte} (h : rest.length < 32) :
    (rowPixels x0 (spriteRow y0 r) row).Disjoint (spritePixels x0 y0 (r + 1) rest) := by
  intro p hfirst hlater
  obtain ⟨_, _, _, _, hrow⟩ := mem_rowPixels.mp hfirst
  obtain ⟨k, _, hk, _, _, _, hrow'⟩ := mem_spritePixels.mp hlater
  have hsame : (y0.toNat + r) % 32 = (y0.toNat + (r + 1 + k)) % 32 := (congrArg Fin.val hrow).symm.trans hrow'
  omega

/-- A sprite no taller than the screen has no pixel twice (R152, R154). -/
theorem spritePixels_nodup (x0 y0 : Byte) (r : Nat) {rows : List Byte} (h : rows.length ≤ 32) :
    (spritePixels x0 y0 r rows).Nodup := by
  induction rows generalizing r with
  | nil => exact List.nodup_nil
  | cons row rest ih =>
    have hrest : rest.length < 32 := h
    exact (rowPixels_nodup x0 _ row).append (ih (r + 1) hrest.le) (rowPixels_disjoint_spritePixels x0 y0 r row hrest)

/-- Settles O40: a sprite of 15 rows fits the height of the screen, and the order of a list without a pixel twice does not matter. -/
theorem spriteTouchesNoPixelTwice : Obligations.SpriteTouchesNoPixelTwice := by
  unfold Obligations.SpriteTouchesNoPixelTwice
  intro x0 y0 rows hrows
  have hnodup : (spritePixels x0 y0 0 rows).Nodup := spritePixels_nodup x0 y0 0 (hrows.trans (by decide))
  exact ⟨hnodup, fun ps d c hperm => Display.draw_perm hnodup hperm d c⟩

end Sys2Proof.Machine

/-! Proof of the timer statement O41: what a write of DT or of ST leaves alone, then the words and meanings of FX07, FX15 and
FX18. -/

namespace Sys2Proof.Machine

/-! ### Rules for a write of a timer -/

/-- A write of DT keeps every part but DT. -/
theorem SameExcept.setDt {ps : List Part} {s t : State} (h : SameExcept ps s t) (hdt : .delayTimer ∈ ps) (b : Byte) :
    SameExcept ps s { t with dt := b } := by
  intro p hp
  have same := h p hp
  cases p
  case delayTimer => exact absurd hdt hp
  all_goals exact same

/-- A write of ST keeps every part but ST. -/
theorem SameExcept.setSt {ps : List Part} {s t : State} (h : SameExcept ps s t) (hst : .soundTimer ∈ ps) (b : Byte) :
    SameExcept ps s { t with st := b } := by
  intro p hp
  have same := h p hp
  cases p
  case soundTimer => exact absurd hst hp
  all_goals exact same

/-! ### The words and their meanings -/

theorem decode_formatR_ldVxDT (x : Reg) : decode (formatR 0xF x 0x07) = .ok (.ldVxDT x) := by
  rw [decode_formatR_classF]
  simp [decodeClassF]

theorem decode_formatR_ldDTVx (x : Reg) : decode (formatR 0xF x 0x15) = .ok (.ldDTVx x) := by
  rw [decode_formatR_classF]
  simp [decodeClassF]

theorem decode_formatR_ldSTVx (x : Reg) : decode (formatR 0xF x 0x18) = .ok (.ldSTVx x) := by
  rw [decode_formatR_classF]
  simp [decodeClassF]

theorem exec_ldVxDT (x : Reg) (s : State) : exec (.ldVxDT x) s = done (s.setReg x s.dt) := rfl

theorem exec_ldDTVx (x : Reg) (s : State) : exec (.ldDTVx x) s = done { s with dt := s.reg x } := rfl

theorem exec_ldSTVx (x : Reg) (s : State) : exec (.ldSTVx x) s = done { s with st := s.reg x } := rfl

/-! ### The statement -/

/-- Settles O41: FX07 is one write of V[X], FX15 one of DT and FX18 one of ST, and each write keeps every other part. -/
theorem timerInstructionsMoveTheTimers : Obligations.TimerInstructionsMoveTheTimers := by
  unfold Obligations.TimerInstructionsMoveTheTimers
  refine fun x => ⟨⟨?_, ?_, ?_⟩, fun s => ⟨?_, ?_, ?_⟩⟩
  · exact decode_formatR_ldVxDT x
  · exact decode_formatR_ldDTVx x
  · exact decode_formatR_ldSTVx x
  · exact exec_next_of_setReg (exec_ldVxDT x s)
  · exact ⟨_, exec_ldDTVx x s, rfl, ((SameExcept.refl _ s).setDt (by simp) _).returning _, rfl⟩
  · exact ⟨_, exec_ldSTVx x s, rfl, ((SameExcept.refl _ s).setSt (by simp) _).returning _, rfl⟩

end Sys2Proof.Machine

/-! Proof of the tick statement O43: a tick lowers each timer by the same floored decrement, and writes no other part. -/

namespace Sys2Proof.Machine

/-! ### Rules for a tick -/

/-- Returning nothing keeps every part: the reply is no part of the frame. -/
theorem SameExcept.returningNothing {ps : List Part} {s t : State} (h : SameExcept ps s t) :
    SameExcept ps s t.returningNothing := by
  intro p hp
  have same := h p hp
  cases p <;> exact same

/-- The floor at zero of R191 is the truncated subtraction of `Nat`. -/
@[simp] theorem tickDown_toNat (b : Byte) : (tickDown b).toNat = b.toNat - 1 := by
  unfold tickDown
  split
  case isTrue hzero => simp [hzero]
  case isFalse hpos => bv_omega

theorem sameExcept_tickTimers (s : State) : SameExcept [.delayTimer, .soundTimer] s (tickTimers s) :=
  (((SameExcept.refl _ s).setDt (by simp) (tickDown s.dt)).setSt (by simp) (tickDown s.st)).returningNothing

theorem transact_tickTimers (s : State) : transact .tickTimers s = .next (tickTimers s) := rfl

/-! ### The statement -/

/-- Settles O43: a tick is the floored decrement on DT and on ST, and its frame is that of the two timer writes. -/
theorem tickDecrementsTowardZero : Obligations.TickDecrementsTowardZero := by
  unfold Obligations.TickDecrementsTowardZero
  refine fun s => ⟨tickTimers s, transact_tickTimers s, ?_, ?_, sameExcept_tickTimers s, tickTimers_reply s⟩
  · exact tickDown_toNat s.dt
  · exact tickDown_toNat s.st

end Sys2Proof.Machine

/-! Proof of the reset statement O48: a reset writes the font as one block of bytes at FONT_BASE. -/

namespace Sys2Proof.Machine

theorem transact_reset (s : State) : transact .reset s = .next (resetMachine s) := rfl

/-- A byte of the glyph region after a reset is that byte of the font (R214). -/
theorem memRead_resetMachine_font {s : State} (hs : s.MemoryCanonical) {k : Nat} (hk : k < Params.fontData.length) :
    (resetMachine s).memRead (Params.fontBase + k) = Params.fontData[k] := by
  rw [State.memRead_congr (resetMachine_mem s)]
  exact State.memRead_writeBytes_inside hs (by simp) hk

/-- Settles O48: a reset always answers, and each of the 80 bytes from FONT_BASE on is one of the block it wrote. -/
theorem resetReinstallsTheGlyphs : Obligations.ResetReinstallsTheGlyphs := by
  unfold Obligations.ResetReinstallsTheGlyphs
  exact fun s hs => ⟨resetMachine s, transact_reset s, fun k hk => memRead_resetMachine_font hs hk⟩

end Sys2Proof.Machine

/-! Proof of the encoding statement O1: the words that the sections above do not decode, then the word and the bytes of every
instruction (R70 to R79). -/

namespace Sys2Proof.Machine

/-! ### Class 0 -/

/-- The low byte of the address field is the field NN (R71). -/
theorem extractLsb'_fieldNNN (w : Word) : (fieldNNN w).extractLsb' 0 8 = fieldNN w := by
  apply BitVec.eq_of_getLsbD_eq
  intro k hk
  simp [fieldNNN, fieldNN, hk]

/-- Class 0 is read by its low byte alone (R75, decision D22). -/
theorem decode_of_class0 {w : Word} (h : opClass w = 0x0) :
    decode w = .ok (if fieldNN w = 0xE0#8 then .cls else if fieldNN w = 0xEE#8 then .ret else .sys (fieldNNN w)) := by
  simp [decode, h, decodeClass0, class0IsCls, class0IsRet, extractLsb'_fieldNNN]

theorem decode_formatR_cls (z : Reg) : decode (formatR 0x0 z 0xE0) = .ok .cls := by
  simp [decode_of_class0]

theorem decode_formatR_ret (z : Reg) : decode (formatR 0x0 z 0xEE) = .ok .ret := by
  simp [decode_of_class0]

theorem decode_formatA_sys {nnn : Addr} (hcls : nnn.extractLsb' 0 8 ≠ 0xE0#8) (hret : nnn.extractLsb' 0 8 ≠ 0xEE#8) :
    decode (formatA 0x0 nnn) = .ok (.sys nnn) := by
  have hlow : fieldNN (formatA 0x0 nnn) = nnn.extractLsb' 0 8 := by rw [← extractLsb'_fieldNNN, fieldNNN_formatA]
  rw [decode_of_class0 (opClass_formatA 0x0 nnn), hlow, if_neg hcls, if_neg hret, fieldNNN_formatA]

/-- A machine call has an encoding exactly if its low byte selects neither 00E0 nor 00EE (R75). -/
theorem wellFormed_sys_iff (nnn : Addr) :
    (Instr.sys nnn).wellFormed = true ↔ nnn.extractLsb' 0 8 ≠ 0xE0#8 ∧ nnn.extractLsb' 0 8 ≠ 0xEE#8 := by
  simp [Instr.wellFormed, class0IsCls, class0IsRet]

/-! ### The words of the other classes -/

theorem decode_formatA_jp (nnn : Addr) : decode (formatA 0x1 nnn) = .ok (.jp nnn) := by
  simp [decode]

theorem decode_formatP_addReg (x y : Reg) : decode (formatP 0x8 x y 0x4) = .ok (.addReg x y) := by
  rw [decode_formatP_class8]
  simp [decodeClass8]

theorem decode_formatP_subReg (x y : Reg) : decode (formatP 0x8 x y 0x5) = .ok (.subReg x y) := by
  rw [decode_formatP_class8]
  simp [decodeClass8]

theorem decode_formatP_shr (x y : Reg) : decode (formatP 0x8 x y 0x6) = .ok (.shr x y) := by
  rw [decode_formatP_class8]
  simp [decodeClass8]

theorem decode_formatP_subn (x y : Reg) : decode (formatP 0x8 x y 0x7) = .ok (.subn x y) := by
  rw [decode_formatP_class8]
  simp [decodeClass8]

theorem decode_formatP_shl (x y : Reg) : decode (formatP 0x8 x y 0xE) = .ok (.shl x y) := by
  rw [decode_formatP_class8]
  simp [decodeClass8]

theorem decode_formatR_rnd (x : Reg) (nn : Byte) : decode (formatR 0xC x nn) = .ok (.rnd x nn) := by
  simp [decode]

theorem decode_formatP_drw (x y : Reg) (n : Fin 16) : decode (formatP 0xD x y (bitsOf n)) = .ok (.drw x y n) := by
  simp [decode]

/-- A class E word is read by its low byte (R78). -/
theorem decode_formatR_classE (x : Reg) (nn : Byte) : decode (formatR 0xE x nn) = decodeClassE (formatR 0xE x nn) :=
  decode_of_classE (opClass_formatR 0xE x nn)

theorem decode_formatR_skp (x : Reg) : decode (formatR 0xE x 0x9E) = .ok (.skp x) := by
  rw [decode_formatR_classE]
  simp [decodeClassE]

theorem decode_formatR_sknp (x : Reg) : decode (formatR 0xE x 0xA1) = .ok (.sknp x) := by
  rw [decode_formatR_classE]
  simp [decodeClassE]

theorem decode_formatR_ldVxK (x : Reg) : decode (formatR 0xF x 0x0A) = .ok (.ldVxK x) := by
  rw [decode_formatR_classF]
  simp [decodeClassF]

theorem decode_formatR_addI (x : Reg) : decode (formatR 0xF x 0x1E) = .ok (.addI x) := by
  rw [decode_formatR_classF]
  simp [decodeClassF]

theorem decode_formatR_ldF (x : Reg) : decode (formatR 0xF x 0x29) = .ok (.ldF x) := by
  rw [decode_formatR_classF]
  simp [decodeClassF]

theorem decode_formatR_ldMemVx (x : Reg) : decode (formatR 0xF x 0x55) = .ok (.ldMemVx x) := by
  rw [decode_formatR_classF]
  simp [decodeClassF]

theorem decode_formatR_ldVxMem (x : Reg) : decode (formatR 0xF x 0x65) = .ok (.ldVxMem x) := by
  rw [decode_formatR_classF]
  simp [decodeClassF]

/-! ### The round trip from an instruction -/

/-- Every well-formed instruction is what its word decodes to, one word per row of the table (R74). -/
theorem decode_encode : ∀ {i : Instr}, i.wellFormed = true → decode (encode i) = .ok i
  | .cls, _ => decode_formatR_cls 0
  | .ret, _ => decode_formatR_ret 0
  | .sys nnn, hwf =>
      have ⟨hcls, hret⟩ := (wellFormed_sys_iff nnn).mp hwf
      decode_formatA_sys hcls hret
  | .jp nnn, _ => decode_formatA_jp nnn
  | .call nnn, _ => decode_formatA_call nnn
  | .seImm x nn, _ => decode_formatR_seImm x nn
  | .sneImm x nn, _ => decode_formatR_sneImm x nn
  | .seReg x y, _ => decode_formatP_class5 x y 0
  | .ldImm x nn, _ => decode_formatR_ldImm x nn
  | .addImm x nn, _ => decode_formatR_addImm x nn
  | .ldReg x y, _ => decode_formatP_ldReg x y
  | .orReg x y, _ => decode_formatP_orReg x y
  | .andReg x y, _ => decode_formatP_andReg x y
  | .xorReg x y, _ => decode_formatP_xorReg x y
  | .addReg x y, _ => decode_formatP_addReg x y
  | .subReg x y, _ => decode_formatP_subReg x y
  | .shr x y, _ => decode_formatP_shr x y
  | .subn x y, _ => decode_formatP_subn x y
  | .shl x y, _ => decode_formatP_shl x y
  | .sneReg x y, _ => decode_formatP_class9 x y 0
  | .ldI nnn, _ => decode_formatA_ldI nnn
  | .jpV0 nnn, _ => decode_formatA_jpV0 nnn
  | .rnd x nn, _ => decode_formatR_rnd x nn
  | .drw x y n, _ => decode_formatP_drw x y n
  | .skp x, _ => decode_formatR_skp x
  | .sknp x, _ => decode_formatR_sknp x
  | .ldVxDT x, _ => decode_formatR_ldVxDT x
  | .ldVxK x, _ => decode_formatR_ldVxK x
  | .ldDTVx x, _ => decode_formatR_ldDTVx x
  | .ldSTVx x, _ => decode_formatR_ldSTVx x
  | .addI x, _ => decode_formatR_addI x
  | .ldF x, _ => decode_formatR_ldF x
  | .ldB x, _ => decode_formatR_ldB x
  | .ldMemVx x, _ => decode_formatR_ldMemVx x
  | .ldVxMem x, _ => decode_formatR_ldVxMem x

/-- Two bytes in memory order decode as the word they make, and what follows them is handed back (R53, R70). -/
theorem decodeBytes_encodeBytes {i : Instr} (hwf : i.wellFormed = true) (rest : List Byte) :
    decodeBytes (encodeBytes i ++ rest) = .ok (i, rest) := by
  simp only [encodeBytes, List.cons_append, List.nil_append, decodeBytes, wordOfBytes_bytes, decode_encode hwf]

/-- Settles O1: the word by the 35 words of the table, the bytes because they make that word again. -/
theorem decodeOfEncodeIsTheInstruction : Obligations.DecodeOfEncodeIsTheInstruction := by
  unfold Obligations.DecodeOfEncodeIsTheInstruction
  exact fun i hwf => ⟨decode_encode hwf, decodeBytes_encodeBytes hwf⟩

end Sys2Proof.Machine

/-! Proof of the encoding statement O2: the word of a decoded instruction, class by class (R70 to R80). -/

namespace Sys2Proof.Machine

/-! ### A word of a known class and sub-code is its format -/

theorem formatA_of_class {w : Word} {c : BitVec 4} (hc : (opClass w).toNat = c.toNat) : formatA c (fieldNNN w) = w := by
  rw [← BitVec.eq_of_toNat_eq hc, formatA_fields]

theorem formatR_of_class {w : Word} {c : BitVec 4} (hc : (opClass w).toNat = c.toNat) :
    formatR c (fieldX w) (fieldNN w) = w := by
  rw [← BitVec.eq_of_toNat_eq hc, formatR_fields]

theorem formatR_of_class_byte {w : Word} {c : BitVec 4} {nn : Byte} (hc : (opClass w).toNat = c.toNat)
    (hnn : (fieldNN w).toNat = nn.toNat) : formatR c (fieldX w) nn = w := by
  rw [← BitVec.eq_of_toNat_eq hnn, formatR_of_class hc]

theorem formatP_of_class_nibble {w : Word} {c n : BitVec 4} (hc : (opClass w).toNat = c.toNat)
    (hn : (bitsN w).toNat = n.toNat) : formatP c (fieldX w) (fieldY w) n = w := by
  rw [← BitVec.eq_of_toNat_eq hc, ← BitVec.eq_of_toNat_eq hn, formatP_fields]

/-- Clearing bits 11:8 of a class-0 word leaves its low byte (R75). -/
theorem and_lowByteMask_of_class0 {w : Word} {nn : Byte} (hc : opClass w = 0x0) (hnn : fieldNN w = nn) :
    w &&& 0xF0FF = formatR 0x0 0 nn := by
  rw [← formatR_fields w, hc, hnn, Laws.EncodesItsRow.formatR_mask_sub]
  rfl

/-! ### What a decoded instruction says of its word -/

/-- `i` has an encoding and is the instruction of `w`, or one of the two whose words leave a nibble free (R75). -/
def StandsFor (i : Instr) (w : Word) : Prop :=
  i.wellFormed = true ∧ (encode i = w ∨ (i = .cls ∨ i = .ret) ∧ encode i = w &&& 0xF0FF)

/-- Class 0: the three instructions that its low byte selects (R75, R100). -/
theorem standsFor_of_class0 {w : Word} (hc : opClass w = 0x0) :
    StandsFor (if fieldNN w = 0xE0#8 then .cls else if fieldNN w = 0xEE#8 then .ret else .sys (fieldNNN w)) w := by
  split
  case isTrue hcls => exact ⟨rfl, .inr ⟨.inl rfl, (and_lowByteMask_of_class0 hc hcls).symm⟩⟩
  case isFalse hcls =>
    split
    case isTrue hret => exact ⟨rfl, .inr ⟨.inr rfl, (and_lowByteMask_of_class0 hc hret).symm⟩⟩
    case isFalse hret =>
      have hwf : (Instr.sys (fieldNNN w)).wellFormed = true := by
        rw [wellFormed_sys_iff, extractLsb'_fieldNNN]
        exact ⟨hcls, hret⟩
      exact ⟨hwf, .inl (formatA_of_class (congrArg BitVec.toNat hc))⟩

/-- Class 8: the low nibble is the sub-code (R77). -/
theorem standsFor_of_class8 {w : Word} {i : Instr} (hc : (opClass w).toNat = 0x8) (hi : decodeClass8 w = .ok i) :
    StandsFor i w := by
  unfold decodeClass8 at hi
  split at hi
  case h_10 => cases hi
  all_goals
    cases hi
    exact ⟨rfl, .inl (formatP_of_class_nibble hc ‹_›)⟩

/-- Class E: the low byte is the sub-code (R78). -/
theorem standsFor_of_classE {w : Word} {i : Instr} (hc : (opClass w).toNat = 0xE) (hi : decodeClassE w = .ok i) :
    StandsFor i w := by
  unfold decodeClassE at hi
  split at hi
  case h_3 => cases hi
  all_goals
    cases hi
    exact ⟨rfl, .inl (formatR_of_class_byte hc ‹_›)⟩

/-- Class F: the low byte is the sub-code (R79). -/
theorem standsFor_of_classF {w : Word} {i : Instr} (hc : (opClass w).toNat = 0xF) (hi : decodeClassF w = .ok i) :
    StandsFor i w := by
  unfold decodeClassF at hi
  split at hi
  case h_10 => cases hi
  all_goals
    cases hi
    exact ⟨rfl, .inl (formatR_of_class_byte hc ‹_›)⟩

/-- The classes without a sub-code give their fields, the others are above; 5 and 9 have one sub-code each (R74, R76). -/
theorem standsFor_of_decode {w : Word} {i : Instr} (hi : decode w = .ok i) : StandsFor i w := by
  have hlt := (opClass w).isLt
  have hi' := hi
  unfold decode at hi
  split at hi
  case h_1 hc =>
    have hc0 : opClass w = 0x0 := BitVec.eq_of_toNat_eq hc
    rw [decode_of_class0 hc0] at hi'
    cases hi'
    exact standsFor_of_class0 hc0
  case h_2 | h_3 | h_11 | h_12 =>
    cases hi
    exact ⟨rfl, .inl (formatA_of_class ‹_›)⟩
  case h_4 | h_5 | h_7 | h_8 | h_13 =>
    cases hi
    exact ⟨rfl, .inl (formatR_of_class ‹_›)⟩
  case h_6 | h_10 =>
    split at hi
    case isTrue hn =>
      cases hi
      exact ⟨rfl, .inl (formatP_of_class_nibble ‹_› (congrArg BitVec.toNat hn))⟩
    case isFalse => cases hi
  case h_9 hc => exact standsFor_of_class8 hc hi
  case h_14 hc =>
    cases hi
    exact ⟨rfl, .inl (formatP_of_class_nibble hc (congrArg BitVec.toNat (bitsOf_nibbleOf (bitsN w)).symm))⟩
  case h_15 hc => exact standsFor_of_classE hc hi
  case h_16 => exact standsFor_of_classF (by simp only [imp_false] at *; omega) hi

/-- Settles O2: every class of the decoder builds its instruction from the fields of the word. -/
theorem encodeOfDecodeIsTheWord : Obligations.EncodeOfDecodeIsTheWord := by
  unfold Obligations.EncodeOfDecodeIsTheWord
  exact fun w i hi => standsFor_of_decode hi

end Sys2Proof.Machine

/-! Proof of the encoding statement O3: a word meets one row of spec/opcode_table.json at most, class 0 apart; the decoded
instruction's row is that one, and a rejected word meets none. -/

namespace Sys2Proof.Machine

/-! ### A row that a word meets -/

/-- The word has the fixed bits of a row of the table. -/
def Meets (w : Word) (r : OpcodeRow) : Prop := r ∈ opcodeTable ∧ w &&& r.mask = r.pattern

theorem matchingRow_eq_none_of_not_meets {w : Word} (h : ∀ r, ¬ Meets w r) : matchingRow w = none := by
  simpa [matchingRow] using fun r hr hmatch => h r ⟨hr, hmatch⟩

/-- A word that meets some row has a first one. -/
theorem exists_matchingRow_of_meets {w : Word} {r : OpcodeRow} (h : Meets w r) :
    ∃ r', matchingRow w = some r' ∧ Meets w r' := by
  obtain ⟨hr, hmatch⟩ := h
  obtain ⟨r', hr'⟩ := Option.isSome_iff_exists.mp (List.find?_isSome (p := fun r => w &&& r.mask == r.pattern).mpr
    ⟨r, hr, beq_iff_eq.mpr hmatch⟩)
  exact ⟨r', hr', List.mem_of_find?_eq_some hr', by simpa using List.find?_some hr'⟩

theorem opClass_and (w m : Word) : opClass (w &&& m) = opClass w &&& opClass m := BitVec.extractLsb'_and

theorem bitsN_and (w m : Word) : bitsN (w &&& m) = bitsN w &&& bitsN m := BitVec.extractLsb'_and

theorem fieldNN_and (w m : Word) : fieldNN (w &&& m) = fieldNN w &&& fieldNN m := BitVec.extractLsb'_and

/-- Every mask of the table covers the class. -/
theorem Meets.opClass_eq {w : Word} {r : OpcodeRow} (h : Meets w r) : opClass r.pattern = opClass w := by
  have hmask : ∀ r ∈ opcodeTable, opClass r.mask = 0xF#4 := by decide
  obtain ⟨hr, hmatch⟩ := h
  rw [← hmatch, opClass_and, hmask r hr, Laws.EncodesItsRow.and_ones4]

theorem Meets.bitsN_eq {w : Word} {r : OpcodeRow} (h : Meets w r) (hmask : r.mask = 0xF00F) : bitsN r.pattern = bitsN w := by
  rw [← h.2, bitsN_and, hmask]
  exact Laws.EncodesItsRow.and_ones4 _

theorem Meets.fieldNN_eq {w : Word} {r : OpcodeRow} (h : Meets w r) (hmask : r.mask = 0xF0FF) :
    fieldNN r.pattern = fieldNN w := by
  rw [← h.2, fieldNN_and, hmask]
  exact Laws.EncodesItsRow.and_ones8 _

/-! ### Outside class 0 the row is unique -/

/-- A word outside class 0 meets one row at most: the rows of a class have one mask, and no two rows a mask and a pattern. -/
theorem Meets.unique {w : Word} {r r' : OpcodeRow} (h : Meets w r) (h' : Meets w r') (hc : opClass w ≠ 0) : r = r' := by
  have onemask : ∀ r ∈ opcodeTable, ∀ r' ∈ opcodeTable, opClass r.pattern = opClass r'.pattern → opClass r.pattern ≠ 0 →
      r.mask = r'.mask := by decide
  have distinct : ∀ r ∈ opcodeTable, ∀ r' ∈ opcodeTable, r.mask = r'.mask → r.pattern = r'.pattern → r = r' := by decide
  have hmask := onemask r h.1 r' h'.1 (h.opClass_eq.trans h'.opClass_eq.symm) (h.opClass_eq ▸ hc)
  refine distinct r h.1 r' h'.1 hmask ?_
  rw [← h.2, ← h'.2, hmask]

theorem matchingRow_of_meets {w : Word} {r : OpcodeRow} (h : Meets w r) (hc : opClass w ≠ 0) : matchingRow w = some r := by
  obtain ⟨r', hr', h'⟩ := exists_matchingRow_of_meets h
  rw [hr', h.unique h' hc]

/-! ### A rejected word -/

/-- The rows of a class with sub-codes select by the sub-code, and none of them has one of those that O4 lists. -/
theorem not_meets_of_rejected {w : Word} {e : DecodeReject} (hw : decode w = .error e) (r : OpcodeRow) : ¬ Meets w r := by
  intro h
  have nibble : ∀ r ∈ opcodeTable, (opClass r.pattern = 0x5 ∨ opClass r.pattern = 0x9) →
      r.mask = 0xF00F ∧ bitsN r.pattern = 0 := by decide
  have alu : ∀ r ∈ opcodeTable, opClass r.pattern = 0x8 →
      r.mask = 0xF00F ∧ bitsN r.pattern ∉ ([0x8, 0x9, 0xA, 0xB, 0xC, 0xD, 0xF] : List (BitVec 4)) := by decide
  have key : ∀ r ∈ opcodeTable, opClass r.pattern = 0xE →
      r.mask = 0xF0FF ∧ fieldNN r.pattern ∈ ([0x9E, 0xA1] : List Byte) := by decide
  have misc : ∀ r ∈ opcodeTable, opClass r.pattern = 0xF →
      r.mask = 0xF0FF ∧ fieldNN r.pattern ∈ ([0x07, 0x0A, 0x15, 0x18, 0x1E, 0x29, 0x33, 0x55, 0x65] : List Byte) := by decide
  have hclass := h.opClass_eq
  obtain ⟨hc, hn⟩ | ⟨hc, hn⟩ | ⟨hc, hnn⟩ | ⟨hc, hnn⟩ := (rejectedSubCodesAreTheListedOnes w).mp ⟨e, hw⟩
  · obtain ⟨hmask, hzero⟩ := nibble r h.1 (hclass ▸ hc)
    exact hn ((h.bitsN_eq hmask).symm.trans hzero)
  · obtain ⟨hmask, hother⟩ := alu r h.1 (hclass.trans hc)
    exact hother (h.bitsN_eq hmask ▸ hn)
  · obtain ⟨hmask, hmem⟩ := key r h.1 (hclass.trans hc)
    exact hnn (h.fieldNN_eq hmask ▸ hmem)
  · obtain ⟨hmask, hmem⟩ := misc r h.1 (hclass.trans hc)
    exact hnn (h.fieldNN_eq hmask ▸ hmem)

/-! ### A decoded word -/

/-- The table begins with the three rows of class 0: the low byte picks CLS or RET, and SYS is for what they leave (R75). -/
theorem matchingRow_of_cls {w : Word} (h : w &&& 0xF0FF#16 = 0x00E0#16) :
    matchingRow w = some ⟨"CLS", 0xF0FF, 0x00E0⟩ := by
  simp [matchingRow, opcodeTable, opcodeRowsLow, class0Mask, h]

theorem matchingRow_of_ret {w : Word} (h : w &&& 0xF0FF#16 = 0x00EE#16) :
    matchingRow w = some ⟨"RET", 0xF0FF, 0x00EE⟩ := by
  simp [matchingRow, opcodeTable, opcodeRowsLow, class0Mask, h]

theorem matchingRow_of_sys {nnn : Addr} (hcls : nnn.extractLsb' 0 8 ≠ 0xE0#8) (hret : nnn.extractLsb' 0 8 ≠ 0xEE#8) :
    matchingRow (formatA 0x0 nnn) = some ⟨"SYS_nnn", 0xF000, 0x0000⟩ := by
  have hlow : fieldNN (formatA 0x0 nnn &&& 0xF0FF) = nnn.extractLsb' 0 8 := by
    rw [fieldNN_and, ← extractLsb'_fieldNNN, fieldNNN_formatA]
    exact Laws.EncodesItsRow.and_ones8 _
  have notcls : formatA 0#4 nnn &&& 0xF0FF#16 ≠ 0x00E0#16 := fun e => hcls (hlow.symm.trans (congrArg fieldNN e))
  have notret : formatA 0#4 nnn &&& 0xF0FF#16 ≠ 0x00EE#16 := fun e => hret (hlow.symm.trans (congrArg fieldNN e))
  have hsys : formatA 0#4 nnn &&& 0xF000#16 = 0x0000#16 := Laws.EncodesItsRow.formatA_mask 0 nnn
  simp [matchingRow, opcodeTable, opcodeRowsLow, class0Mask, notcls, notret, hsys]

/-- The word of every instruction meets a row with the instruction's mnemonic (R74). -/
theorem encode_meets_its_row : ∀ i : Instr, Laws.EncodesItsRow.Statement i
  | .cls => Laws.EncodesItsRow.cls
  | .ret => Laws.EncodesItsRow.ret
  | .sys nnn => Laws.EncodesItsRow.sys nnn
  | .jp nnn => Laws.EncodesItsRow.jp nnn
  | .call nnn => Laws.EncodesItsRow.call nnn
  | .seImm x nn => Laws.EncodesItsRow.seImm x nn
  | .sneImm x nn => Laws.EncodesItsRow.sneImm x nn
  | .seReg x y => Laws.EncodesItsRow.seReg x y
  | .ldImm x nn => Laws.EncodesItsRow.ldImm x nn
  | .addImm x nn => Laws.EncodesItsRow.addImm x nn
  | .ldReg x y => Laws.EncodesItsRow.ldReg x y
  | .orReg x y => Laws.EncodesItsRow.orReg x y
  | .andReg x y => Laws.EncodesItsRow.andReg x y
  | .xorReg x y => Laws.EncodesItsRow.xorReg x y
  | .addReg x y => Laws.EncodesItsRow.addReg x y
  | .subReg x y => Laws.EncodesItsRow.subReg x y
  | .shr x y => Laws.EncodesItsRow.shr x y
  | .subn x y => Laws.EncodesItsRow.subn x y
  | .shl x y => Laws.EncodesItsRow.shl x y
  | .sneReg x y => Laws.EncodesItsRow.sneReg x y
  | .ldI nnn => Laws.EncodesItsRow.ldI nnn
  | .jpV0 nnn => Laws.EncodesItsRow.jpV0 nnn
  | .rnd x nn => Laws.EncodesItsRow.rnd x nn
  | .drw x y n => Laws.EncodesItsRow.drw x y n
  | .skp x => Laws.EncodesItsRow.skp x
  | .sknp x => Laws.EncodesItsRow.sknp x
  | .ldVxDT x => Laws.EncodesItsRow.ldVxDT x
  | .ldVxK x => Laws.EncodesItsRow.ldVxK x
  | .ldDTVx x => Laws.EncodesItsRow.ldDTVx x
  | .ldSTVx x => Laws.EncodesItsRow.ldSTVx x
  | .addI x => Laws.EncodesItsRow.addI x
  | .ldF x => Laws.EncodesItsRow.ldF x
  | .ldB x => Laws.EncodesItsRow.ldB x
  | .ldMemVx x => Laws.EncodesItsRow.ldMemVx x
  | .ldVxMem x => Laws.EncodesItsRow.ldVxMem x

/-- An instruction outside class 0 has its word outside class 0. -/
theorem opClass_encode_ne_zero {i : Instr} (hcls : i ≠ .cls) (hret : i ≠ .ret) (hsys : ∀ nnn, i ≠ .sys nnn) :
    opClass (encode i) ≠ 0 := by
  cases i
  case cls => exact absurd rfl hcls
  case ret => exact absurd rfl hret
  case sys nnn => exact absurd rfl (hsys nnn)
  all_goals simp [encode]

/-- The first row of a decoded word carries the instruction's mnemonic. -/
theorem matchingRow_of_standsFor {w : Word} {i : Instr} (h : StandsFor i w) :
    (matchingRow w).map OpcodeRow.mnemonic = some i.mnemonic := by
  obtain ⟨hwf, hword | ⟨rfl | rfl, hword⟩⟩ := h
  · by_cases hcls : i = .cls
    · subst hcls hword
      exact congrArg _ (matchingRow_of_cls rfl)
    by_cases hret : i = .ret
    · subst hret hword
      exact congrArg _ (matchingRow_of_ret rfl)
    by_cases hsys : ∃ nnn, i = .sys nnn
    · obtain ⟨nnn, rfl⟩ := hsys
      obtain ⟨hne0, hneE⟩ := (wellFormed_sys_iff nnn).mp hwf
      exact hword ▸ congrArg _ (matchingRow_of_sys hne0 hneE)
    obtain ⟨r, hr, hname, hmatch⟩ := encode_meets_its_row i
    have hc := opClass_encode_ne_zero hcls hret (not_exists.mp hsys)
    rw [← hword, matchingRow_of_meets ⟨hr, hmatch⟩ hc, Option.map_some, hname]
  · exact congrArg _ (matchingRow_of_cls hword.symm)
  · exact congrArg _ (matchingRow_of_ret hword.symm)

/-- Settles O3: a decoded word by its instruction's row, a rejected one because it meets no row. -/
theorem decoderFollowsTheOpcodeTable : Obligations.DecoderFollowsTheOpcodeTable := by
  unfold Obligations.DecoderFollowsTheOpcodeTable
  intro w
  rcases hw : decode w with e | i
  · simp [matchingRow_eq_none_of_not_meets (not_meets_of_rejected hw)]
  · exact (matchingRow_of_standsFor (standsFor_of_decode hw)).symm

end Sys2Proof.Machine

/-! Proof of the encoding statement O5: the words of spec/95_test_vectors.md, one for each format. -/

namespace Sys2Proof.Machine

/-- Settles O5: the decoder computes on each of the 21 words. -/
theorem sampleWordsDecode : Obligations.SampleWordsDecode := by
  unfold Obligations.SampleWordsDecode
  refine ⟨?_, ?_, ?_, ?_, ?_, ?_, ?_, ?_, ?_, ?_, ?_, ?_, ?_, ?_, ?_, ?_, ?_, ?_, ?_, ?_, ?_⟩ <;> rfl

end Sys2Proof.Machine

/-! Proofs of the frame statements O11 and O12: the meanings not stated above, what each update of the state leaves alone, then
which parts and which registers an instruction may change (R22 to R56). -/

namespace Sys2Proof.Machine

/-! ### The remaining meanings -/

theorem exec_cls (s : State) : exec .cls s = done { s with display := Display.blank } := rfl

theorem exec_sys (nnn : Addr) (s : State) : exec (.sys nnn) s = .next (s.returning (.decodeError (sysWord nnn))) := rfl

theorem exec_jp (nnn : Addr) (s : State) : exec (.jp nnn) s = done (s.setPc nnn) := rfl

theorem exec_addReg (x y : Reg) (s : State) :
    exec (.addReg x y) s = done (s.setResultAndFlag x (s.reg x + s.reg y) (carryFlag (s.reg x) (s.reg y))) := rfl

theorem exec_subReg (x y : Reg) (s : State) :
    exec (.subReg x y) s = done (s.setResultAndFlag x (s.reg x - s.reg y) (noBorrowFlag (s.reg x) (s.reg y))) := rfl

theorem exec_subn (x y : Reg) (s : State) :
    exec (.subn x y) s = done (s.setResultAndFlag x (s.reg y - s.reg x) (noBorrowFlag (s.reg y) (s.reg x))) := rfl

theorem exec_shr (x y : Reg) (s : State) :
    exec (.shr x y) s = done (s.setResultAndFlag x (s.reg y >>> 1) (shrFlag (s.reg y))) := rfl

/-- The flag is the raw masked bit (R134, decision D9). -/
theorem exec_shl (x y : Reg) (s : State) :
    exec (.shl x y) s = done (s.setResultAndFlag x (s.reg y <<< 1) (s.reg y &&& 0x80)) := rfl

theorem exec_rnd (x : Reg) (nn : Byte) (s : State) :
    exec (.rnd x nn) s = done (s.takeRandom.setReg x (Config.randomByte s.randomIndex &&& nn)) := rfl

theorem exec_skp (x : Reg) (s : State) : exec (.skp x) s = done (s.skipIf (s.key (keyOf (s.reg x)))) := rfl

theorem exec_sknp (x : Reg) (s : State) : exec (.sknp x) s = done (s.skipIf (!s.key (keyOf (s.reg x)))) := rfl

theorem exec_ldF (x : Reg) (s : State) : exec (.ldF x) s = done (s.setI (glyphAddress (s.reg x))) := rfl

theorem exec_addI (x : Reg) (s : State) :
    exec (.addI x) s = done ((s.setI (s.i + (s.reg x).setWidth 16)).setReg VF
      (if indexOverflows s.i (s.reg x) then 1 else s.reg VF)) := rfl

/-- I stays (R144, decision D10). -/
theorem exec_ldMemVx (x : Reg) (s : State) :
    exec (.ldMemVx x) s = done (s.writeBytes s.i.toNat (s.regsUpTo x)) := rfl

/-- I stays (R145, decision D10). -/
theorem exec_ldVxMem (x : Reg) (s : State) : exec (.ldVxMem x) s = done (s.loadRegs x s.i.toNat) := rfl

theorem exec_ldVxK_of_idle (x : Reg) {s : State} (h : s.wait = .idle) :
    exec (.ldVxK x) s = done ((s.setPc (s.pc - 2)).setWait (.armed x)) := by
  simp only [exec, execLdVxK, h, State.rewindPc]

/-- The target of the wait under way stays, whatever X is (R165, decision D16). -/
theorem exec_ldVxK_of_armed (x : Reg) {s : State} {r : Reg} (h : s.wait = .armed r) :
    exec (.ldVxK x) s = done (s.setPc (s.pc - 2)) := by
  simp only [exec, execLdVxK, h, State.rewindPc]

theorem exec_ldVxK_of_captured (x : Reg) {s : State} {k : KeyIndex} (h : s.wait = .captured k) :
    exec (.ldVxK x) s = done (s.setWait .idle) := by
  simp only [exec, execLdVxK, h]

/-- A return with an entry held takes the last one to pc (R101). -/
theorem exec_ret_of_sp_pos {s : State} (h : 0 < s.sp.val) :
    exec .ret s = done (State.setPc { s with sp := ⟨s.sp.val - 1, by omega⟩ } (s.stack[s.sp.val - 1]'(by omega))) := by
  obtain ⟨h0, -⟩ | ⟨_, e⟩ := execRet_cases s
  · omega
  · exact e

/-! ### Rules for the remaining updates -/

/-- Parts the same from `s` to `t` and from `t` to `u` are the same from `s` to `u`. -/
theorem SameExcept.trans {ps : List Part} {s t u : State} (h : SameExcept ps s t) (h' : SameExcept ps t u) :
    SameExcept ps s u := by
  intro p hp
  have same := h p hp
  have same' := h' p hp
  cases p <;> simp_all [Part.Same]

theorem SameExcept.mono {ps qs : List Part} {s t : State} (h : SameExcept ps s t) (hsub : ps ⊆ qs) : SameExcept qs s t :=
  fun p hp => h p fun hmem => hp (hsub hmem)

/-- A write of SP alone, which is all that a pop does to the stack (R28). -/
theorem SameExcept.setSp {ps : List Part} {s t : State} (h : SameExcept ps s t) (hsp : .stackPointer ∈ ps) (n : Fin 17) :
    SameExcept ps s { t with sp := n } := by
  intro p hp
  have same := h p hp
  cases p
  case stackPointer => exact absurd hsp hp
  all_goals exact same

theorem SameExcept.setDisplay {ps : List Part} {s t : State} (h : SameExcept ps s t) (hdisplay : .display ∈ ps) (d : Display) :
    SameExcept ps s { t with display := d } := by
  intro p hp
  have same := h p hp
  cases p
  case display => exact absurd hdisplay hp
  all_goals exact same

theorem SameExcept.setWait {ps : List Part} {s t : State} (h : SameExcept ps s t) (hwait : .wait ∈ ps) (w : WaitState) :
    SameExcept ps s (t.setWait w) := by
  intro p hp
  have same := h p hp
  cases p
  case wait => exact absurd hwait hp
  all_goals exact same

theorem SameExcept.setKey {ps : List Part} {s t : State} (h : SameExcept ps s t) (hkeypad : .keypad ∈ ps) (k : KeyIndex)
    (b : Bool) : SameExcept ps s (t.setKey k b) := by
  intro p hp
  have same := h p hp
  cases p
  case keypad => exact absurd hkeypad hp
  all_goals exact same

theorem SameExcept.takeRandom {ps : List Part} {s t : State} (h : SameExcept ps s t) (hrandom : .random ∈ ps) :
    SameExcept ps s t.takeRandom := by
  intro p hp
  have same := h p hp
  cases p
  case random => exact absurd hrandom hp
  all_goals exact same

theorem SameExcept.setRegisters {ps : List Part} {s t : State} (h : SameExcept ps s t) (hregs : .registers ∈ ps)
    (v : Vector Byte 16) : SameExcept ps s { t with v := v } := by
  intro p hp
  have same := h p hp
  cases p
  case registers => exact absurd hregs hp
  all_goals exact same

theorem SameExcept.loadRegs {ps : List Part} {s t : State} (h : SameExcept ps s t) (hregs : .registers ∈ ps) (x : Reg)
    (a : Nat) : SameExcept ps s (t.loadRegs x a) :=
  h.setRegisters hregs _

/-- The result and the flag are two writes of registers (R129). -/
theorem SameExcept.setResultAndFlag {ps : List Part} {s t : State} (h : SameExcept ps s t) (hregs : .registers ∈ ps) (x : Reg)
    (a f : Byte) : SameExcept ps s (t.setResultAndFlag x a f) :=
  (h.setReg hregs x a).setReg hregs VF f

/-! ### The parts an instruction may change -/

/-- The parts that the successful end of a meaning leaves alone are those its updates leave alone (R94). -/
theorem SameExcept.of_done {ps : List Part} {s t u : State} (h : SameExcept ps s u) (e : done u = .next t) :
    SameExcept ps s t := by
  cases e
  exact h.returning _

/-- Each instruction's frame, from the updates that are its meaning (R22 to R56). -/
theorem sameExcept_mayWrite_of_exec {i : Instr} {s t : State} (h : exec i s = .next t) : SameExcept (mayWrite i) s t := by
  have base : SameExcept (mayWrite i) s s := SameExcept.refl _ s
  cases i
  case cls => exact (base.setDisplay (by simp [mayWrite]) _).of_done h
  case ret =>
    obtain hempty | hpos := Nat.eq_zero_or_pos s.sp.val
    · cases (exec_ret_of_empty hempty).symm.trans h
      exact base.returning _
    · rw [exec_ret_of_sp_pos hpos] at h
      exact ((base.setSp (by simp [mayWrite]) _).setPc (by simp [mayWrite]) _).of_done h
  case sys nnn =>
    cases h
    exact base.returning _
  case jp nnn => exact (base.setPc (by simp [mayWrite]) _).of_done h
  case jpV0 nnn => exact (base.setPc (by simp [mayWrite]) _).of_done h
  case call nnn =>
    obtain ⟨hfull, -⟩ | ⟨hlt, -⟩ := execCall_cases nnn s
    · cases (exec_call_of_full nnn hfull).symm.trans h
      exact base.returning _
    · rw [exec_call_of_sp_lt nnn hlt] at h
      exact ((base.setStack (by simp [mayWrite]) (by simp [mayWrite]) _ _).setPc (by simp [mayWrite]) _).of_done h
  case seImm | sneImm | seReg | sneReg | skp | sknp => exact (base.skipIf (by simp [mayWrite]) _).of_done h
  case ldImm | addImm | ldReg | orReg | andReg | xorReg | ldVxDT =>
    exact (base.setReg (by simp [mayWrite]) _ _).of_done h
  case addReg | subReg | shr | subn | shl => exact (base.setResultAndFlag (by simp [mayWrite]) _ _ _).of_done h
  case rnd x nn => exact ((base.takeRandom (by simp [mayWrite])).setReg (by simp [mayWrite]) _ _).of_done h
  case drw x y n =>
    cases h
    exact ((base.setDisplay (by simp [mayWrite]) _).setReg (by simp [mayWrite]) _ _).returning _
  case ldVxMem x => exact (base.loadRegs (by simp [mayWrite]) _ _).of_done h
  case ldVxK x =>
    rcases hw : s.wait with _ | r | k
    · rw [exec_ldVxK_of_idle x hw] at h
      exact ((base.setPc (by simp [mayWrite]) _).setWait (by simp [mayWrite]) _).of_done h
    · rw [exec_ldVxK_of_armed x hw] at h
      exact (base.setPc (by simp [mayWrite]) _).of_done h
    · rw [exec_ldVxK_of_captured x hw] at h
      exact (base.setWait (by simp [mayWrite]) _).of_done h
  case ldDTVx x => exact (base.setDt (by simp [mayWrite]) _).of_done h
  case ldSTVx x => exact (base.setSt (by simp [mayWrite]) _).of_done h
  case ldI | ldF => exact (base.setI (by simp [mayWrite]) _).of_done h
  case addI x => exact ((base.setI (by simp [mayWrite]) _).setReg (by simp [mayWrite]) _ _).of_done h
  case ldB | ldMemVx => exact (base.writeBytes (by simp [mayWrite]) _ _).of_done h

/-- Settles O12: the frame of each instruction. -/
theorem stateChangesOnlyThroughItsWriters : Obligations.StateChangesOnlyThroughItsWriters := by
  unfold Obligations.StateChangesOnlyThroughItsWriters
  exact fun i s t h => sameExcept_mayWrite_of_exec h

/-! ### The registers an instruction may change -/

/-- A register that the successful end of a meaning reads is the one its updates left (R94). -/
theorem reg_of_done {s t u : State} {r : Reg} (h : u.reg r = s.reg r) (e : done u = .next t) : t.reg r = s.reg r := by
  cases e
  exact h

theorem State.reg_setReg_of_ne (s : State) {x r : Reg} (b : Byte) (h : r ≠ x) : (s.setReg x b).reg r = s.reg r := by
  rw [State.reg_setReg, if_neg h]

theorem State.reg_setResultAndFlag_of_ne (s : State) {x r : Reg} (a f : Byte) (hx : r ≠ x) (hflag : r ≠ VF) :
    (s.setResultAndFlag x a f).reg r = s.reg r := by
  rw [State.reg_setResultAndFlag, if_neg hflag, if_neg hx]

/-- An instruction that writes registers leaves those that its row of the table does not list; any other leaves them all
(R22). -/
theorem reg_of_exec {i : Instr} {s t : State} {r : Reg} (h : exec i s = .next t) (hr : writesReg r i = false) :
    t.reg r = s.reg r := by
  by_cases hregs : .registers ∈ mayWrite i
  case neg => exact sameExcept_mayWrite_of_exec h .registers hregs r
  cases i
  case ldImm | addImm | ldReg | orReg | andReg | xorReg | ldVxDT =>
    exact reg_of_done (State.reg_setReg_of_ne _ _ (by simpa [writesReg] using hr)) h
  case rnd x nn =>
    exact reg_of_done (State.reg_setReg_of_ne s.takeRandom _ (by simpa [writesReg] using hr)) h
  case addReg x y | subReg x y | shr x y | subn x y | shl x y =>
    obtain ⟨hx, hflag⟩ : r ≠ x ∧ r ≠ VF := by simpa [writesReg] using hr
    exact reg_of_done (State.reg_setResultAndFlag_of_ne _ _ _ hx hflag) h
  case drw x y n =>
    cases h
    exact State.reg_setReg_of_ne _ _ (by simpa [writesReg] using hr)
  case addI x =>
    exact reg_of_done (State.reg_setReg_of_ne (s.setI (s.i + (s.reg x).setWidth 16)) _ (by simpa [writesReg] using hr)) h
  case ldVxMem x =>
    have hlt : ¬ r ≤ x := by simpa [writesReg] using hr
    exact reg_of_done ((s.reg_loadRegs x r _).trans (if_neg hlt)) h
  all_goals simp [mayWrite] at hregs

/-- Settles O11: the registers each instruction leaves. -/
theorem registersChangeOnlyThroughTheirWriters : Obligations.RegistersChangeOnlyThroughTheirWriters := by
  unfold Obligations.RegistersChangeOnlyThroughTheirWriters
  exact fun i s t r h hr => reg_of_exec h hr

end Sys2Proof.Machine

/-! Proofs of the step statements O6, O7, O8 and O9: what a step over a decoded and over a rejected word is, and the ways in
which a step can fail (R90 to R97, R180 to R183). -/

namespace Sys2Proof.Machine

theorem step_of_decode {s : State} {i : Instr} (h : decode s.fetchWord = .ok i) : step s = exec i s.advancePc := by
  simp only [step, h]

theorem step_of_reject {s : State} {e : DecodeReject} (h : decode s.fetchWord = .error e) :
    step s = .next (s.advancePc.returning (.decodeError s.fetchWord)) := by
  simp only [step, h]
  rfl

/-- Settles O6: the two bytes are the fetched word (D1). -/
theorem stepRunsTheDecodedInstruction : Obligations.StepRunsTheDecodedInstruction := by
  unfold Obligations.StepRunsTheDecodedInstruction
  exact fun s i h => step_of_decode h

/-- Returning a reply with pc advanced changes no other part (R92, R95). -/
theorem sameExcept_advancePc_returning (s : State) (r : Reply) :
    SameExcept [.programCounter] s (s.advancePc.returning r) :=
  ((SameExcept.refl _ s).setPc (by simp) _).returning r

/-- Settles O7: the state of a rejected word is the old one with pc advanced and the failure returned. -/
theorem illegalWordIsADecodeError : Obligations.IllegalWordIsADecodeError := by
  unfold Obligations.IllegalWordIsADecodeError
  exact fun s e h => ⟨_, step_of_reject h, rfl, rfl, sameExcept_advancePc_returning s _⟩

/-! ### The ways in which a meaning and a step can fail -/

/-- A word decodes to a machine call only if it is the call's word (R100). -/
theorem sysWord_of_decode {w : Word} {nnn : Addr} (h : decode w = .ok (.sys nnn)) : sysWord nnn = w := by
  obtain ⟨-, hword | ⟨hclass, -⟩⟩ := standsFor_of_decode h
  · exact hword
  · simp at hclass

/-- The failure that running `i` at `s` returns, if it fails (R100, R101, R103). -/
def failureOf (i : Instr) (s : State) : Option Reply :=
  match i with
  | .sys nnn => some (.decodeError (sysWord nnn))
  | .call _ => if s.sp.val = 16 then some .stackOverflow else none
  | .ret => if s.sp.val = 0 then some .stackUnderflow else none
  | _ => none

theorem failureOf_sys (nnn : Addr) (s : State) : failureOf (.sys nnn) s = some (.decodeError (sysWord nnn)) := rfl

theorem failureOf_call_eq_some_iff (nnn : Addr) (s : State) (r : Reply) :
    failureOf (.call nnn) s = some r ↔ s.sp.val = 16 ∧ Reply.stackOverflow = r :=
  Option.ite_none_right_eq_some.trans (and_congr_right' Option.some_inj)

theorem failureOf_ret_eq_some_iff (s : State) (r : Reply) :
    failureOf .ret s = some r ↔ s.sp.val = 0 ∧ Reply.stackUnderflow = r :=
  Option.ite_none_right_eq_some.trans (and_congr_right' Option.some_inj)

theorem failed_of_done {s t : State} (h : done s = .next t) : t.failed = false := by
  cases h
  rfl

/-- A meaning that fails returns its failure and does nothing else (R95). -/
theorem exec_of_failureOf {i : Instr} {s : State} {r : Reply} (h : failureOf i s = some r) :
    exec i s = .next (s.returning r) := by
  cases i
  case sys nnn =>
    cases h
    rfl
  case call nnn =>
    obtain ⟨hfull, rfl⟩ := (failureOf_call_eq_some_iff nnn s r).mp h
    exact exec_call_of_full nnn hfull
  case ret =>
    obtain ⟨hempty, rfl⟩ := (failureOf_ret_eq_some_iff s r).mp h
    exact exec_ret_of_empty hempty
  all_goals cases h

/-- A meaning without a failure succeeds (R94). -/
theorem failed_of_exec {i : Instr} {s t : State} (hnone : failureOf i s = none) (h : exec i s = .next t) :
    t.failed = false := by
  cases i
  case sys nnn => cases hnone
  case call nnn =>
    obtain ⟨hfull, -⟩ | ⟨_, e⟩ := execCall_cases nnn s
    · cases hnone.symm.trans ((failureOf_call_eq_some_iff nnn s _).mpr ⟨hfull, rfl⟩)
    · exact failed_of_done (e.symm.trans h)
  case ret =>
    obtain ⟨hempty, -⟩ | ⟨_, e⟩ := execRet_cases s
    · cases hnone.symm.trans ((failureOf_ret_eq_some_iff s _).mpr ⟨hempty, rfl⟩)
    · exact failed_of_done (e.symm.trans h)
  case ldVxK x =>
    obtain ⟨-, e⟩ | ⟨_, -, e⟩ | ⟨_, -, e⟩ := execLdVxK_cases x s <;> exact failed_of_done (e.symm.trans h)
  case drw x y n =>
    cases h
    rfl
  all_goals exact failed_of_done h

/-- The failure of the step at `s`, if it fails: its word is rejected, or what it runs fails (R180). -/
def stepFailure (s : State) : Option Reply :=
  match decode s.fetchWord with
  | .ok i => failureOf i s.advancePc
  | .error _ => some (.decodeError s.fetchWord)

/-- A step that fails advances pc, returns its failure and does nothing else (R95). -/
theorem step_of_stepFailure {s : State} {r : Reply} (h : stepFailure s = some r) :
    step s = .next (s.advancePc.returning r) := by
  rcases hw : decode s.fetchWord with e | i
  · obtain rfl : Reply.decodeError s.fetchWord = r := by simpa [stepFailure, hw] using h
    exact step_of_reject hw
  · rw [step_of_decode hw]
    exact exec_of_failureOf (by simpa only [stepFailure, hw] using h)

theorem failed_of_step {s t : State} (hnone : stepFailure s = none) (h : step s = .next t) : t.failed = false := by
  rcases hw : decode s.fetchWord with e | i
  · simp [stepFailure, hw] at hnone
  · rw [step_of_decode hw] at h
    exact failed_of_exec (by simpa only [stepFailure, hw] using hnone) h

/-- Settles O8: a step that failed had a failure, and then only pc was advanced. -/
theorem failedStepChangesOnlyThePc : Obligations.FailedStepChangesOnlyThePc := by
  unfold Obligations.FailedStepChangesOnlyThePc
  intro s t h hfailed
  rcases hs : stepFailure s with _ | r
  · simp [failed_of_step hs h] at hfailed
  · cases (step_of_stepFailure hs).symm.trans h
    exact ⟨rfl, sameExcept_advancePc_returning s r⟩

/-! ### The cause of each failure -/

theorem step_answers (s : State) : ∃ t, step s = .next t := by
  obtain ⟨i, -, e⟩ | ⟨_, -, e⟩ := step_cases s
  · rw [e]
    exact exec_answers i _
  · exact ⟨_, e⟩

/-- A step's reply is a failure exactly if that is the step's failure (R95). -/
theorem reply_eq_failure_iff {s t : State} (h : step s = .next t) {r : Reply} (hr : r.isFailure = true) :
    t.reply = some r ↔ stepFailure s = some r := by
  rcases hs : stepFailure s with _ | r'
  · have hok := failed_of_step hs h
    refine iff_of_false (fun hreply => ?_) (by simp)
    simp [State.failed, hreply, hr] at hok
  · cases (step_of_stepFailure hs).symm.trans h
    rfl

/-- DecodeError: the word is rejected or is a machine call, and the reply carries the word (R97, R181). -/
theorem stepFailure_eq_decodeError_iff (s : State) (w : Word) :
    stepFailure s = some (.decodeError w) ↔
      w = s.fetchWord ∧ ((∃ e, decode s.fetchWord = .error e) ∨ ∃ nnn, decode s.fetchWord = .ok (.sys nnn)) := by
  rcases hw : decode s.fetchWord with e | i
  · simp [stepFailure, hw, eq_comm]
  · simp only [stepFailure, hw]
    cases i
    case sys nnn => simp [failureOf_sys, sysWord_of_decode hw, eq_comm]
    case call nnn => simp [failureOf_call_eq_some_iff]
    case ret => simp [failureOf_ret_eq_some_iff]
    all_goals exact iff_of_false nofun (by simp)

/-- StackOverflow: a call with 16 entries held (R182). -/
theorem stepFailure_eq_stackOverflow_iff (s : State) :
    stepFailure s = some .stackOverflow ↔ (∃ nnn, decode s.fetchWord = .ok (.call nnn)) ∧ s.sp.val = 16 := by
  rcases hw : decode s.fetchWord with e | i
  · simp [stepFailure, hw]
  · simp only [stepFailure, hw]
    cases i
    case call nnn => simp [failureOf_call_eq_some_iff]
    case ret => simp [failureOf_ret_eq_some_iff]
    all_goals exact iff_of_false nofun (by simp)

/-- StackUnderflow: a return with no entry held (R183). -/
theorem stepFailure_eq_stackUnderflow_iff (s : State) :
    stepFailure s = some .stackUnderflow ↔ decode s.fetchWord = .ok .ret ∧ s.sp.val = 0 := by
  rcases hw : decode s.fetchWord with e | i
  · simp [stepFailure, hw]
  · simp only [stepFailure, hw]
    cases i
    case call nnn => simp [failureOf_call_eq_some_iff]
    case ret => simp [failureOf_ret_eq_some_iff]
    all_goals exact iff_of_false nofun (by simp)

/-- Settles O9: the reply is the step's failure, and each failure has its cause. -/
theorem everyStepAnswersAndFailsOnlyForItsCause : Obligations.EveryStepAnswersAndFailsOnlyForItsCause := by
  unfold Obligations.EveryStepAnswersAndFailsOnlyForItsCause
  intro s
  obtain ⟨t, h⟩ := step_answers s
  refine ⟨t, h, fun w => ?_, ?_, ?_⟩
  · exact (reply_eq_failure_iff h rfl).trans (stepFailure_eq_decodeError_iff s w)
  · exact (reply_eq_failure_iff h rfl).trans (stepFailure_eq_stackOverflow_iff s)
  · exact (reply_eq_failure_iff h rfl).trans (stepFailure_eq_stackUnderflow_iff s)

end Sys2Proof.Machine

/-! Proofs of the arithmetic statements O16 to O19: what an instruction that writes a result and then VF leaves (R129), then the
numbers behind the 8-bit results and flags. -/

namespace Sys2Proof.Machine

/-! ### A result and its flag -/

/-- The next state of an instruction whose whole meaning is a result and then the flag: with X = F the flag stays (R129). -/
theorem exec_next_of_setResultAndFlag {i : Instr} {s : State} {x : Reg} {a f : Byte}
    (he : exec i s = done (s.setResultAndFlag x a f)) :
    ∃ t, exec i s = .next t ∧ (x ≠ VF → t.reg x = a) ∧ t.reg VF = f ∧ OnlyRegisters [x, VF] s t ∧
      t.reply = some .continue := by
  refine ⟨_, he, fun hx => ?_, ?_, ?_, rfl⟩
  · exact (s.reg_setResultAndFlag x x a f).trans (by rw [if_neg hx, if_pos rfl])
  · exact (s.reg_setResultAndFlag x VF a f).trans (if_pos rfl)
  · exact (((OnlyRegisters.refl [x, VF] s).setReg (by simp) a).setReg (by simp) f).returning _

/-! ### The results and flags as numbers -/

theorem flagByte_decide (p : Prop) [Decidable p] : flagByte (decide p) = if p then 1 else 0 := by
  simp [flagByte]

theorem toNat_sub_byte (a b : Byte) : (a - b).toNat = (256 + a.toNat - b.toNat) % 256 := by
  bv_omega

theorem toNat_ushiftRight_one (b : Byte) : (b >>> 1).toNat = b.toNat / 2 := by
  rw [BitVec.toNat_ushiftRight, Nat.shiftRight_eq_div_pow, pow_one]

theorem toNat_shiftLeft_one (b : Byte) : (b <<< 1).toNat = 2 * b.toNat % 256 := by
  rw [BitVec.toNat_shiftLeft, Nat.shiftLeft_eq, pow_one, Nat.mul_comm]

/-- The bit that a right shift loses (R130). -/
theorem toNat_shrFlag (b : Byte) : (shrFlag b).toNat = b.toNat % 2 := by
  rw [shrFlag, BitVec.toNat_and]
  exact Nat.and_two_pow_sub_one_eq_mod b.toNat 1

/-- The bit that a left shift loses, at its place (R134, decision D9). -/
theorem and_highBit (b : Byte) : b &&& 0x80 = if 128 ≤ b.toNat then 0x80 else 0 := by
  revert b
  decide

/-! ### The statements -/

/-- Settles O16: the 8-bit sum and its carry. -/
theorem addWithCarrySetsSumAndFlag : Obligations.AddWithCarrySetsSumAndFlag := by
  unfold Obligations.AddWithCarrySetsSumAndFlag
  refine fun x y => ⟨decode_formatP_addReg x y, fun s => ?_⟩
  obtain ⟨t, hnext, hresult, hflag, frame, hreply⟩ := exec_next_of_setResultAndFlag (exec_addReg x y s)
  refine ⟨t, hnext, fun hx => ?_, hflag.trans (flagByte_decide _), frame, hreply⟩
  rw [hresult hx, BitVec.toNat_add]

/-- Settles O17: the 8-bit difference and the absence of a borrow, in both orders of the operands. -/
theorem subtractionsSetDifferenceAndNoBorrow : Obligations.SubtractionsSetDifferenceAndNoBorrow := by
  unfold Obligations.SubtractionsSetDifferenceAndNoBorrow
  refine fun x y => ⟨⟨decode_formatP_subReg x y, decode_formatP_subn x y⟩, fun s => ⟨?_, ?_⟩⟩
  · obtain ⟨t, hnext, hresult, hflag, frame, hreply⟩ := exec_next_of_setResultAndFlag (exec_subReg x y s)
    refine ⟨t, hnext, fun hx => ?_, hflag.trans (flagByte_decide _), frame, hreply⟩
    rw [hresult hx, toNat_sub_byte]
  · obtain ⟨t, hnext, hresult, hflag, frame, hreply⟩ := exec_next_of_setResultAndFlag (exec_subn x y s)
    refine ⟨t, hnext, fun hx => ?_, hflag.trans (flagByte_decide _), frame, hreply⟩
    rw [hresult hx, toNat_sub_byte]

/-- Settles O18: the shifts are the division and the doubling of V[Y], and the flags the bits they lose. -/
theorem shiftsReadTheSecondRegister : Obligations.ShiftsReadTheSecondRegister := by
  unfold Obligations.ShiftsReadTheSecondRegister
  refine fun x y => ⟨⟨decode_formatP_shr x y, decode_formatP_shl x y⟩, fun s => ⟨?_, ?_⟩⟩
  · obtain ⟨t, hnext, hresult, hflag, frame, hreply⟩ := exec_next_of_setResultAndFlag (exec_shr x y s)
    refine ⟨t, hnext, fun hx => ?_, ?_, frame, hreply⟩
    · rw [hresult hx, toNat_ushiftRight_one]
    · rw [hflag, toNat_shrFlag]
  · obtain ⟨t, hnext, hresult, hflag, frame, hreply⟩ := exec_next_of_setResultAndFlag (exec_shl x y s)
    refine ⟨t, hnext, fun hx => ?_, hflag.trans (and_highBit _), frame, hreply⟩
    rw [hresult hx, toNat_shiftLeft_one]

/-- Settles O19: one byte of the stream is taken, and a bit outside the mask is lost in the AND. -/
theorem randomTakesOneByteAndMasksIt : Obligations.RandomTakesOneByteAndMasksIt := by
  unfold Obligations.RandomTakesOneByteAndMasksIt
  refine fun x nn => ⟨decode_formatR_rnd x nn, fun s => ?_⟩
  have hmasked : (s.takeRandom.setReg x (Config.randomByte s.randomIndex &&& nn)).reg x =
      Config.randomByte s.randomIndex &&& nn := (State.reg_setReg _ x x _).trans (if_pos rfl)
  refine ⟨_, exec_rnd x nn s, hmasked, fun k hk => ?_, rfl, fun r hr => ?_, ?_, rfl⟩
  · refine (congrArg (BitVec.getLsbD · k) hmasked).trans ?_
    simp [hk]
  · exact State.reg_setReg_of_ne s.takeRandom _ hr
  · exact (((SameExcept.refl _ s).takeRandom (by simp)).setReg (by simp) x _).returning _

end Sys2Proof.Machine

/-! Proofs of the control-transfer statements O21, O22, O25, O27, O28 and O29: the key skips, the jump, the machine call, and
the call stack as a sequence (R26 to R29, R100 to R117). -/

namespace Sys2Proof.Machine

/-! ### Skips, the jump and the machine call -/

/-- Settles O21: each of the two is a skip on the key of the low nibble. -/
theorem keySkipsTestTheSelectedKey : Obligations.KeySkipsTestTheSelectedKey := by
  unfold Obligations.KeySkipsTestTheSelectedKey
  refine fun x => ⟨⟨decode_formatR_skp x, decode_formatR_sknp x⟩, fun s k hk => ?_⟩
  obtain rfl : k = keyOf (s.reg x) := Fin.ext hk
  exact ⟨exec_next_of_skipIf (exec_skp x s) rfl, exec_next_of_skipIf (exec_sknp x s) (by cases s.key (keyOf (s.reg x)) <;> rfl)⟩

/-- Settles O22: the meaning is one write of pc. -/
theorem jumpTakesAnyTarget : Obligations.JumpTakesAnyTarget := by
  unfold Obligations.JumpTakesAnyTarget
  exact fun nnn => ⟨decode_formatA_jp nnn, fun s =>
    ⟨_, exec_jp nnn s, rfl, ((SameExcept.refl _ s).setPc (by simp) nnn).returning _, rfl⟩⟩

/-- Settles O29: the machine call returns its failure and does nothing else. -/
theorem machineCallIsADecodeFailure : Obligations.MachineCallIsADecodeFailure := by
  unfold Obligations.MachineCallIsADecodeFailure
  exact fun nnn => ⟨decode_formatA_sys, fun s => ⟨_, exec_sys nnn s, rfl, (SameExcept.refl [] s).returning _⟩⟩

/-! ### Call and return -/

/-- Settles O25: with an entry held the return is a write of SP and one of pc. -/
theorem returnPopsTheLastEntry : Obligations.ReturnPopsTheLastEntry := by
  unfold Obligations.ReturnPopsTheLastEntry
  refine ⟨decode_formatR_ret, fun s h => ⟨_, exec_ret_of_sp_pos h, rfl, ?_, ?_, rfl⟩⟩
  · exact Nat.sub_add_cancel h
  · exact (((SameExcept.refl _ s).setSp (by simp) _).setPc (by simp) _).returning _

/-- Settles O27: the call that succeeded left its pc in the last entry, and the return takes it. -/
theorem returnGoesBackToTheCall : Obligations.ReturnGoesBackToTheCall := by
  unfold Obligations.ReturnGoesBackToTheCall
  intro nnn s t u hcall hok hsp hstack
  obtain ⟨hfull, -⟩ | ⟨hlt, -⟩ := execCall_cases nnn s
  · cases (exec_call_of_full nnn hfull).symm.trans hcall
    cases hok
  · cases (exec_call_of_sp_lt nnn hlt).symm.trans hcall
    have hsp' : u.sp.val = s.sp.val + 1 := congrArg Fin.val hsp
    refine ⟨_, exec_ret_of_sp_pos (by omega), ?_, Fin.ext ?_, rfl⟩
    · refine Eq.trans (b := u.stack[s.sp.val]) ?_ ?_
      · simp [hsp']
      · simp [hstack]
    · exact congrArg (· - 1) hsp'

/-! ### The stack as a sequence -/

/-- A push with an entry free stores the address at SP and raises SP (R27). -/
theorem State.push_of_sp_lt {s : State} (a : Addr) (h : s.sp.val < 16) :
    s.push a = some { s with stack := s.stack.set s.sp.val a h, sp := ⟨s.sp.val + 1, by omega⟩ } := by
  obtain ⟨hfull, -⟩ | ⟨_, e⟩ := s.push_cases a
  · omega
  · exact e

/-- A pop with an entry held gives the last one and lowers SP (R28). -/
theorem State.pop_of_sp_pos {s : State} (h : 0 < s.sp.val) :
    s.pop = some (s.stack[s.sp.val - 1]'(by omega), { s with sp := ⟨s.sp.val - 1, by omega⟩ }) := by
  obtain ⟨hempty, -⟩ | ⟨_, e⟩ := s.pop_cases
  · omega
  · exact e

theorem pushAll_cons {s t : State} {a : Addr} (h : s.push a = some t) (rest : List Addr) :
    pushAll (a :: rest) s = pushAll rest t := by
  simp only [pushAll, h]

theorem popAll_succ_eq_some {n : Nat} {s t u : State} {a : Addr} {as : List Addr} (hpop : s.pop = some (a, t))
    (h : popAll n t = some (as, u)) : popAll (n + 1) s = some (a :: as, u) := by
  simp only [popAll, hpop, h]

/-- The pops before the last one, taken apart from it. -/
theorem popAll_succ_cases {n : Nat} {s u : State} {as : List Addr} (h : popAll (n + 1) s = some (as, u)) :
    ∃ a rest t, as = a :: rest ∧ s.pop = some (a, t) ∧ popAll n t = some (rest, u) := by
  simp only [popAll] at h
  split at h
  case h_2 => cases h
  case h_1 a t hpop =>
    split at h
    case h_2 => cases h
    case h_1 rest v hrest =>
      cases h
      exact ⟨a, rest, t, rfl, hpop, hrest⟩

/-- One pop more: its address comes behind those of the pops before it. -/
theorem popAll_succ_append {n : Nat} {s t u : State} {as : List Addr} {a : Addr} (h : popAll n s = some (as, t))
    (hpop : t.pop = some (a, u)) : popAll (n + 1) s = some (as ++ [a], u) := by
  induction n generalizing s as with
  | zero =>
    cases h
    exact popAll_succ_eq_some hpop rfl
  | succ n ih =>
    obtain ⟨b, rest, s', rfl, hfirst, hrest⟩ := popAll_succ_cases h
    exact popAll_succ_eq_some hfirst (ih hrest)

/-- Pushing a list that fits keeps the entries below it, and as many pops give it back reversed and change no entry. -/
theorem popAll_of_pushAll {as : List Addr} {s : State} (h : s.sp.val + as.length ≤ 16) :
    ∃ t u, pushAll as s = some t ∧ t.sp.val = s.sp.val + as.length ∧
      (∀ k (_ : k < 16), k < s.sp.val → t.stack[k] = s.stack[k]) ∧
      popAll as.length t = some (as.reverse, u) ∧ u.sp = s.sp ∧ u.stack = t.stack := by
  induction as generalizing s with
  | nil => exact ⟨s, s, rfl, rfl, fun _ _ _ => rfl, rfl, rfl, rfl⟩
  | cons a rest ih =>
    simp only [List.length_cons] at h
    have hlt : s.sp.val < 16 := by omega
    have hpush := State.push_of_sp_lt a hlt
    obtain ⟨t, u, hall, hsp, hbelow, hpops, husp, hustack⟩ :=
      ih (s := { s with stack := s.stack.set s.sp.val a hlt, sp := ⟨s.sp.val + 1, by omega⟩ }) (by simp only; omega)
    have husp' : u.sp.val = s.sp.val + 1 := congrArg Fin.val husp
    have hentry : u.stack[u.sp.val - 1]'(by omega) = a := by
      simp only [hustack, husp', Nat.add_sub_cancel]
      exact (hbelow _ hlt (Nat.lt_succ_self _)).trans (Vector.getElem_set_self hlt)
    have hpop := State.pop_of_sp_pos (s := u) (by omega)
    rw [hentry] at hpop
    refine ⟨t, { u with sp := ⟨u.sp.val - 1, by omega⟩ }, (pushAll_cons hpush rest).trans hall, ?_, fun k hk hlow => ?_, ?_,
      Fin.ext ?_, hustack⟩
    · simp only [hsp, List.length_cons]
      omega
    · exact (hbelow k hk (by simp only; omega)).trans (Vector.getElem_set_ne hlt hk (by omega))
    · rw [List.reverse_cons]
      exact popAll_succ_append hpops hpop
    · exact congrArg (· - 1) husp'

/-- A list that does not fit meets a full stack at one of its pushes (R29). -/
theorem pushAll_eq_none {as : List Addr} {s : State} (h : 16 < s.sp.val + as.length) : pushAll as s = none := by
  induction as generalizing s with
  | nil =>
    have := s.sp.isLt
    simp only [List.length_nil] at h
    omega
  | cons a rest ih =>
    simp only [List.length_cons] at h
    obtain ⟨-, hnone⟩ | ⟨_, hpush⟩ := s.push_cases a
    · simp only [pushAll, hnone]
    · rw [pushAll_cons hpush]
      exact ih (by simp only; omega)

/-- Settles O28: the pops of a list that fits, and the overflow of one that does not. -/
theorem stackIsLastInFirstOut : Obligations.StackIsLastInFirstOut := by
  unfold Obligations.StackIsLastInFirstOut
  refine fun as s => ⟨fun hfits => ?_, pushAll_eq_none⟩
  obtain ⟨t, u, hpush, hsp, -, hpops, husp, -⟩ := popAll_of_pushAll hfits
  exact ⟨t, u, hpush, hsp, hpops, husp⟩

end Sys2Proof.Machine

/-! Proofs of the index and memory statements O31, O32, O34, O35, O36, O52 and O58: the numbers behind FX1E and FX29, the
register block of FX55 and FX65, the word at pc after a store, and the canonical form (R50 to R57, R141 to R146). -/

namespace Sys2Proof.Machine

/-! ### FX1E and FX29 -/

/-- The 16-bit sum is the sum of the numbers modulo 65536: the register's byte is widened without loss (R141). -/
theorem toNat_add_setWidth (i : Word) (b : Byte) : (i + b.setWidth 16).toNat = (i.toNat + b.toNat) % 65536 := by
  have widened : (b.setWidth 16).toNat = b.toNat := BitVec.toNat_setWidth_of_le (by decide)
  rw [BitVec.toNat_add, widened]

/-- Settles O31: a write of I and one of VF. -/
theorem addToIndexFlagsSixteenBitOverflow : Obligations.AddToIndexFlagsSixteenBitOverflow := by
  unfold Obligations.AddToIndexFlagsSixteenBitOverflow
  refine fun x => ⟨decode_formatR_addI x, fun s => ⟨_, exec_addI x s, ?_, ?_, fun r hr => ?_, ?_, rfl⟩⟩
  · exact toNat_add_setWidth s.i (s.reg x)
  · refine (State.reg_setReg (s.setI (s.i + (s.reg x).setWidth 16)) VF VF _).trans ?_
    simp [indexOverflows]
  · exact State.reg_setReg_of_ne (s.setI (s.i + (s.reg x).setWidth 16)) _ hr
  · exact (((SameExcept.refl _ s).setI (by simp) _).setReg (by simp) VF _).returning _

/-- The address of a glyph fits the index register (R142). -/
theorem toNat_glyphAddress (b : Byte) : (glyphAddress b).toNat = Params.fontBase + 5 * (b.toNat % 16) := by
  refine (BitVec.toNat_ofNat _ _).trans (Nat.mod_eq_of_lt ?_)
  simp only [Params.fontBase, lowNibble]
  omega

/-- Settles O32: a write of I. -/
theorem glyphAddressIsFiveTimesTheDigit : Obligations.GlyphAddressIsFiveTimesTheDigit := by
  unfold Obligations.GlyphAddressIsFiveTimesTheDigit
  refine fun x => ⟨decode_formatR_ldF x, fun s => ⟨_, exec_ldF x s, ?_, ?_, rfl⟩⟩
  · exact toNat_glyphAddress (s.reg x)
  · exact ((SameExcept.refl _ s).setI (by simp) _).returning _

/-! ### FX55 and FX65 -/

@[simp] theorem State.length_regsUpTo (s : State) (x : Reg) : (s.regsUpTo x).length = x.val + 1 := by
  simp [State.regsUpTo]

/-- A reply is no register. -/
@[simp] theorem State.reg_returning (s : State) (rep : Reply) (r : Reg) : (s.returning rep).reg r = s.reg r :=
  State.reg_congr (s.returning_v rep) r

theorem State.getElem_regsUpTo (s : State) {x r : Reg} (h : r.val < (s.regsUpTo x).length) :
    (s.regsUpTo x)[r.val] = s.reg r := by
  simp [State.regsUpTo, State.reg]

/-- Settles O34: the block of registers is written at I. -/
theorem storeRegistersWritesTheBlock : Obligations.StoreRegistersWritesTheBlock := by
  unfold Obligations.StoreRegistersWritesTheBlock
  refine fun x => ⟨decode_formatR_ldMemVx x, fun s hs => ?_⟩
  have hlen := s.length_regsUpTo x
  obtain ⟨t, hnext, inside, outside, frame, hreply⟩ :=
    exec_next_of_writeBytes hs (by omega) (exec_ldMemVx x s)
  refine ⟨t, hnext, fun r hr => ?_, fun a ha => outside a fun k hk => ?_, frame, hreply⟩
  · have hlt : r.val < (s.regsUpTo x).length := by rw [hlen]; exact Nat.lt_succ_of_le hr
    exact (inside r.val hlt).trans (s.getElem_regsUpTo hlt)
  · have hle : k ≤ x.val := by omega
    exact ha ⟨k, by omega⟩ hle

/-- Settles O35: the registers up to X take the bytes at I. -/
theorem loadRegistersReadsTheBlock : Obligations.LoadRegistersReadsTheBlock := by
  unfold Obligations.LoadRegistersReadsTheBlock
  refine fun x => ⟨decode_formatR_ldVxMem x, fun s => ⟨_, exec_ldVxMem x s, fun r hr => ?_, fun r hr => ?_, ?_, rfl⟩⟩
  · rw [State.reg_returning, State.reg_loadRegs, if_pos hr, State.memRead_mod]
  · rw [State.reg_returning, State.reg_loadRegs, if_neg (not_le.mpr hr)]
  · exact ((SameExcept.refl _ s).loadRegs (by simp) x _).returning _

/-! ### The word at pc -/

/-- The word fetched is the bytes at pc and pc + 1 (D1), whatever multiple of 4096 is added to the address. -/
theorem State.fetchWord_of_memRead {s : State} {a : Nat} {b0 b1 : Byte} (ha : a % 4096 = s.pc.toNat)
    (h0 : s.memRead a = b0) (h1 : s.memRead (a + 1) = b1) : s.fetchWord = wordOfBytes Params.byteOrder b0 b1 := by
  have h1' : s.memRead (s.pc.toNat + 1) = b1 := by
    rw [← h1, ← s.memRead_mod (s.pc.toNat + 1), ← s.memRead_mod (a + 1), ← ha, Nat.mod_add_mod]
  rw [State.fetchWord, h1', ← ha, State.memRead_mod, h0]

/-- Settles O36: the bytes at pc and pc + 1 are the first two of the block. -/
theorem storedWordIsFetchedNext : Obligations.StoredWordIsFetchedNext := by
  unfold Obligations.StoredWordIsFetchedNext
  intro x s t hs hx hpc h
  obtain ⟨u, hnext, inside, -, frame, -⟩ := (storeRegistersWritesTheBlock x).2 s hs
  cases hnext.symm.trans h
  have samePc : t.pc = s.pc := frame .programCounter (by simp)
  exact State.fetchWord_of_memRead (hpc.trans (congrArg BitVec.toNat samePc.symm)) (inside 0 (Fin.zero_le x)) (inside 1 hx)

/-- A word placed at pc is the word fetched there (R53). -/
theorem State.fetchWord_placeWord {s : State} (hs : s.MemoryCanonical) (w : Word) : (s.placeWord w).fetchWord = w := by
  have inside : ∀ k (hk : k < 2), (s.placeWord w).memRead (s.pc.toNat + k) =
      [firstByte Params.byteOrder w, secondByte Params.byteOrder w][k] := fun k hk =>
    State.memRead_writeBytes_inside hs (by simp) hk
  have samePc : (s.placeWord w).pc = s.pc := State.writeBytes_pc s _ _
  rw [State.fetchWord_of_memRead (by rw [samePc]; exact Nat.mod_eq_of_lt s.pc.isLt) (inside 0 (by simp)) (inside 1 (by simp))]
  exact wordOfBytes_bytes _ w

theorem State.withFetchWord_toNat (s : State) (w : Word) : s.withFetchWord 16 w.toNat = s.placeWord w := by
  rw [State.withFetchWord, Nat.mod_eq_of_lt w.isLt, BitVec.ofNat_toNat, BitVec.setWidth_eq]

/-- Settles O58: the two bytes placed at pc are fetched as the instruction's word, and the word decodes to it. -/
theorem placedInstructionIsTheOneThatRuns : Obligations.PlacedInstructionIsTheOneThatRuns := by
  unfold Obligations.PlacedInstructionIsTheOneThatRuns
  intro s i hs hwf
  rw [State.withFetchWord_toNat]
  refine ⟨(SameExcept.refl _ s).writeBytes (by simp) _ _, fun a h0 h1 => ?_, ?_⟩
  · refine State.memRead_writeBytes_outside hs fun k hk => ?_
    have hpc := s.pc.isLt
    obtain rfl | rfl : k = 0 ∨ k = 1 := by simp at hk; omega
    · rw [Nat.add_zero, Nat.mod_eq_of_lt hpc]
      exact h0.symm
    · exact h1.symm
  · exact step_of_decode ((congrArg decode (State.fetchWord_placeWord hs _)).trans (decode_encode hwf))

/-! ### The canonical form -/

theorem Memory.wf_of_cons {c : Host.Cell} {m : Memory} (h : Memory.wf (c :: m)) : Memory.wf m :=
  ⟨(List.pairwise_cons.mp h.1).2, fun d hd => h.2 d (List.mem_cons_of_mem c hd)⟩

/-- What lies behind a cell has higher addresses. -/
theorem Memory.lt_of_mem_tail {c : Host.Cell} {m : Memory} (h : Memory.wf (c :: m)) : ∀ d ∈ m, c.1 < d.1 :=
  (List.pairwise_cons.mp h.1).1

theorem Memory.read_head (c : Host.Cell) (m : Memory) : Memory.read (c :: m) c.1 = c.2 :=
  if_pos rfl

theorem Memory.read_tail {c : Host.Cell} {a : Nat} (h : c.1 ≠ a) (m : Memory) : Memory.read (c :: m) a = Memory.read m a :=
  if_neg h

/-- A memory whose cells all lie above the first cell of another reads differently there: that cell does not hold what its
address reads as unlisted. -/
theorem Memory.read_ne_of_head_lt {c : Host.Cell} {m n : Memory} (hm : Memory.wf (c :: m)) (hn : ∀ d ∈ n, c.1 < d.1) :
    Memory.read (c :: m) c.1 ≠ n.read c.1 := by
  rw [Memory.read_head, Memory.read_of_lt hn]
  exact (hm.2 c List.mem_cons_self).2

/-- Cells at or above the head of a canonical list lie above an address below it. -/
theorem Memory.lt_of_mem_of_lt_head {c : Host.Cell} {m : Memory} {a : Nat} (h : Memory.wf (c :: m)) (ha : a < c.1) :
    ∀ d ∈ c :: m, a < d.1 := by
  intro d hd
  obtain rfl | hd := List.mem_cons.mp hd
  · exact ha
  · exact ha.trans (Memory.lt_of_mem_tail h d hd)

theorem Memory.head_lt_memSize {c : Host.Cell} {m : Memory} (h : Memory.wf (c :: m)) : c.1 < 4096 :=
  (h.2 c List.mem_cons_self).1

/-- Settles O52, along both lists: the first cells stand at one address, or the lower of them is read from one list only. -/
theorem canonicalMemoriesThatReadAlikeAreEqual : Obligations.CanonicalMemoriesThatReadAlikeAreEqual := by
  unfold Obligations.CanonicalMemoriesThatReadAlikeAreEqual
  intro m
  induction m with
  | nil =>
    intro n _ hn hread
    cases n with
    | nil => rfl
    | cons d n => exact absurd (hread d.1 (Memory.head_lt_memSize hn)).symm (Memory.read_ne_of_head_lt hn (by simp))
  | cons c m ih =>
    intro n hm hn hread
    have hc := hread c.1 (Memory.head_lt_memSize hm)
    cases n with
    | nil => exact absurd hc (Memory.read_ne_of_head_lt hm (by simp))
    | cons d n =>
      have hd := hread d.1 (Memory.head_lt_memSize hn)
      obtain hlt | heq | hgt := Nat.lt_trichotomy c.1 d.1
      · exact absurd hc (Memory.read_ne_of_head_lt hm (Memory.lt_of_mem_of_lt_head hn hlt))
      · have hbyte : c.2 = d.2 := by
          rw [Memory.read_head, heq, Memory.read_head] at hc
          exact hc
        obtain rfl : c = d := Prod.ext heq hbyte
        refine congrArg (c :: ·) (ih n (Memory.wf_of_cons hm) (Memory.wf_of_cons hn) fun a ha => ?_)
        by_cases hca : c.1 = a
        · rw [← hca, Memory.read_of_lt (Memory.lt_of_mem_tail hm), Memory.read_of_lt (Memory.lt_of_mem_tail hn)]
        · rw [← Memory.read_tail hca m, ← Memory.read_tail hca n, hread a ha]
      · exact absurd hd.symm (Memory.read_ne_of_head_lt hn (Memory.lt_of_mem_of_lt_head hm hgt))

end Sys2Proof.Machine

/-! Proofs of the display statements O37, O38 and O39: a draw inverts the pixels of its sprite, and the same draw made again
has the same sprite (R151 to R157). -/

namespace Sys2Proof.Machine

theorem State.pixel_blank (s : State) (x : Fin 64) (y : Fin 32) :
    State.pixel { s with display := Display.blank } x y = false :=
  Display.pixel_blank (x, y)

/-- Settles O37: a write of the display. -/
theorem clearDisplayUnsetsEveryPixel : Obligations.ClearDisplayUnsetsEveryPixel := by
  unfold Obligations.ClearDisplayUnsetsEveryPixel
  exact ⟨decode_formatR_cls, fun s =>
    ⟨_, exec_cls s, s.pixel_blank, ((SameExcept.refl _ s).setDisplay (by simp) _).returning _, rfl⟩⟩

/-! ### The sprite of a draw -/

/-- The pixels of the sprite that DXYN draws (R152). -/
def State.spriteOf (s : State) (x y : Reg) (n : Fin 16) : List Pixel :=
  spritePixels (s.reg x) (s.reg y) 0 (s.readBytes s.i.toNat n.val)

/-- The sprite has at most 15 rows, so it has no pixel twice (R154). -/
theorem State.spriteOf_nodup (s : State) (x y : Reg) (n : Fin 16) : (s.spriteOf x y n).Nodup :=
  spritePixels_nodup _ _ 0 (by rw [State.readBytes_length]; omega)

theorem State.mem_spriteOf_iff (s : State) (x y : Reg) (n : Fin 16) (px : Fin 64) (py : Fin 32) :
    (px, py) ∈ s.spriteOf x y n ↔ SpriteCovers s (s.reg x) (s.reg y) n.val px py := by
  simp only [State.spriteOf, mem_spritePixels, SpriteCovers, State.readBytes_length, State.readBytes_getElem, Nat.zero_add,
    exists_prop]

/-- A sprite is read from its two registers, I and memory (R152). -/
theorem State.spriteOf_congr {s t : State} {x y : Reg} (n : Fin 16) (hx : t.reg x = s.reg x) (hy : t.reg y = s.reg y)
    (hi : t.i = s.i) (hmem : ∀ a, t.memRead a = s.memRead a) : t.spriteOf x y n = s.spriteOf x y n := by
  simp only [State.spriteOf, State.readBytes, hx, hy, hi, hmem]

theorem exec_drw (x y : Reg) (n : Fin 16) (s : State) :
    exec (.drw x y n) s = .next ((State.setReg { s with display := (Display.draw (s.spriteOf x y n) s.display false).1 } VF
      (flagByte (Display.draw (s.spriteOf x y n) s.display false).2)).returning .redraw) := rfl

/-- The next state of a draw: the pixels of its sprite inverted, and VF from those of them that were set (R152, R155). -/
theorem exec_drw_next (x y : Reg) (n : Fin 16) (s : State) :
    ∃ t, exec (.drw x y n) s = .next t ∧
      (∀ px py, t.pixel px py = (s.pixel px py ^^ decide ((px, py) ∈ s.spriteOf x y n))) ∧
      t.reg VF = (if ∃ p ∈ s.spriteOf x y n, Display.pixel s.display p = true then 1 else 0) ∧
      (∀ r, r ≠ VF → t.reg r = s.reg r) ∧ SameExcept [.registers, .display] s t ∧ t.reply = some .redraw := by
  obtain ⟨hpixel, hflag⟩ := Display.draw_spec (s.spriteOf_nodup x y n) s.display false
  refine ⟨_, exec_drw x y n s, fun px py => hpixel (px, py), ?_, fun r hr => ?_, ?_, rfl⟩
  · rw [State.reg_returning, State.reg_setReg, if_pos rfl]
    simp [flagByte, hflag]
  · rw [State.reg_returning, State.reg_setReg_of_ne _ _ hr]
    rfl
  · exact (((SameExcept.refl _ s).setDisplay (by simp) _).setReg (by simp) VF _).returning _

/-- Settles O38: the pixels of the sprite are those that it covers. -/
theorem drawInvertsTheSpritesPixels : Obligations.DrawInvertsTheSpritesPixels := by
  unfold Obligations.DrawInvertsTheSpritesPixels
  refine fun x y n => ⟨decode_formatP_drw x y n, fun s => ?_⟩
  obtain ⟨t, hnext, hpixel, hflag, hregs, frame, hreply⟩ := exec_drw_next x y n s
  refine ⟨t, hnext, fun px py hcov => ?_, fun px py hcov => ?_, fun ⟨px, py, hcov, hset⟩ => ?_, fun hunset => ?_, hregs, frame,
    hreply⟩
  · rw [hpixel, decide_eq_true ((s.mem_spriteOf_iff x y n px py).mpr hcov), Bool.xor_true]
  · rw [hpixel, decide_eq_false (mt (s.mem_spriteOf_iff x y n px py).mp hcov), Bool.xor_false]
  · exact hflag.trans (if_pos ⟨(px, py), (s.mem_spriteOf_iff x y n px py).mpr hcov, hset⟩)
  · refine hflag.trans (if_neg ?_)
    rintro ⟨⟨px, py⟩, hmem, hset⟩
    exact absurd hset (Bool.eq_false_iff.mp (hunset px py ((s.mem_spriteOf_iff x y n px py).mp hmem)))

/-- A draw leaves its own sprite alone if its coordinates are not in VF. -/
theorem State.spriteOf_of_exec_drw {x y : Reg} {n : Fin 16} {s t : State} (hx : x ≠ VF) (hy : y ≠ VF)
    (h : exec (.drw x y n) s = .next t) : t.spriteOf x y n = s.spriteOf x y n := by
  have frame := sameExcept_mayWrite_of_exec h
  refine State.spriteOf_congr n ?_ ?_ (frame .index (by simp [mayWrite])) (frame .memory (by simp [mayWrite]))
  · exact reg_of_exec h (by simpa [writesReg] using hx)
  · exact reg_of_exec h (by simpa [writesReg] using hy)

/-- Settles O39: the second draw inverts the same pixels again, and one of them is set before it exactly if the first set it. -/
theorem drawingTwiceRestoresTheDisplay : Obligations.DrawingTwiceRestoresTheDisplay := by
  unfold Obligations.DrawingTwiceRestoresTheDisplay
  intro x y n s t hx hy h
  obtain ⟨t', hnext, hfirst, -⟩ := exec_drw_next x y n s
  cases hnext.symm.trans h
  obtain ⟨u, hnext', hsecond, hflag, -⟩ := exec_drw_next x y n t
  rw [State.spriteOf_of_exec_drw hx hy h] at hsecond hflag
  have hcollides : (∃ p ∈ s.spriteOf x y n, Display.pixel t.display p = true) ↔
      ∃ px py, s.pixel px py = false ∧ t.pixel px py = true := by
    constructor
    · rintro ⟨⟨px, py⟩, hmem, hset⟩
      have hinverted := hfirst px py
      rw [decide_eq_true hmem, Bool.xor_true] at hinverted
      exact ⟨px, py, by simpa [hset] using hinverted.symm.trans hset, hset⟩
    · rintro ⟨px, py, hunset, hset⟩
      refine ⟨(px, py), ?_, hset⟩
      simpa [hunset, hset] using hfirst px py
  refine ⟨u, hnext', fun px py => ?_, ?_, ?_⟩
  · rw [hsecond, hfirst, Bool.xor_assoc, Bool.xor_self, Bool.xor_false]
  · rw [hflag, ← hcollides]
    simp
  · rw [hflag]
    simp only [← not_exists, ← hcollides]
    simp

end Sys2Proof.Machine

/-! Proofs of the keypad and host statements O42, O44, O45, O46, O47, O49, O50 and O51 (R164 to R168, R191 to R198, R210 to
R215). -/

namespace Sys2Proof.Machine

/-! ### The keypress wait -/

/-- Settles O42: one of the three meanings of FX0A in each wait state. -/
theorem keyWaitArmsWaitsAndAcknowledges : Obligations.KeyWaitArmsWaitsAndAcknowledges := by
  unfold Obligations.KeyWaitArmsWaitsAndAcknowledges
  refine fun x => ⟨decode_formatR_ldVxK x, fun s => ⟨fun hidle => ?_, fun r harmed => ?_, fun k hcaptured => ?_⟩⟩
  · exact ⟨_, exec_ldVxK_of_idle x hidle, rfl, rfl,
      (((SameExcept.refl _ s).setPc (by simp) _).setWait (by simp) _).returning _, rfl⟩
  · exact ⟨_, exec_ldVxK_of_armed x harmed, harmed, rfl, ((SameExcept.refl _ s).setPc (by simp) _).returning _, rfl⟩
  · exact ⟨_, exec_ldVxK_of_captured x hcaptured, rfl, ((SameExcept.refl _ s).setWait (by simp) _).returning _, rfl⟩

/-! ### Ticks -/

theorem transactAll_cons {a : Transaction} {s t : State} (h : transact a s = .next t) (rest : List Transaction) :
    transactAll (a :: rest) s = transactAll rest t := by
  simp only [transactAll, h]

/-- Settles O44, by induction on the ticks: each one lowers what the others leave. -/
theorem timersRunOutAfterTheirValueInTicks : Obligations.TimersRunOutAfterTheirValueInTicks := by
  unfold Obligations.TimersRunOutAfterTheirValueInTicks
  intro n
  induction n with
  | zero => exact fun s => ⟨s, rfl, rfl, rfl, SameExcept.refl _ s⟩
  | succ n ih =>
    intro s
    obtain ⟨t, hall, hdt, hst, frame⟩ := ih (tickTimers s)
    refine ⟨t, (transactAll_cons (transact_tickTimers s) _).trans hall, ?_, ?_, (sameExcept_tickTimers s).trans frame⟩
    · rw [hdt, tickTimers_dt, tickDown_toNat]
      omega
    · rw [hst, tickTimers_st, tickDown_toNat]
      omega

/-! ### Keys -/

theorem transact_setKey (k : KeyIndex) (p : Bool) (s : State) :
    transact (.setKey k.val p) s = .next (pressOrRelease k p s) :=
  dif_pos k.isLt

theorem State.capture_of_armed {s : State} {r : Reg} (h : s.wait = .armed r) (k : KeyIndex) :
    s.capture k = (s.setReg r (BitVec.ofNat 8 k.val)).setWait (.captured k) := by
  simp only [State.capture, h]
  rfl

theorem State.capture_of_not_armed {s : State} (h : ∀ r, s.wait ≠ .armed r) (k : KeyIndex) : s.capture k = s := by
  unfold State.capture
  split
  case h_1 r harmed => exact absurd harmed (h r)
  all_goals rfl

/-- A press transition while a wait is armed: the key's number to the register that waits (R167). -/
theorem pressOrRelease_captures {k : KeyIndex} {s : State} {r : Reg} (harmed : s.wait = .armed r) (hkey : s.key k = false) :
    pressOrRelease k true s =
      (((s.setKey k true).setReg r (BitVec.ofNat 8 k.val)).setWait (.captured k)).returningNothing := by
  rw [← State.capture_of_armed (s := s.setKey k true) harmed k]
  exact if_pos (by simp [hkey])

/-- Any other change of a key changes that key alone (R168). -/
theorem pressOrRelease_of_no_capture {k : KeyIndex} {p : Bool} {s : State}
    (h : p = false ∨ s.key k = true ∨ ∀ r, s.wait ≠ .armed r) :
    pressOrRelease k p s = (s.setKey k p).returningNothing := by
  obtain hp | hkey | hunarmed := h
  · exact if_neg (by simp [hp])
  · exact if_neg (by simp [hkey])
  · rw [pressOrRelease, State.capture_of_not_armed (s := s.setKey k p) hunarmed, ite_self]

/-- A change of a key either captures or changes the key alone (R167, R168, decision D17). -/
theorem press_cases (k : KeyIndex) (p : Bool) (s : State) :
    (∃ r, s.wait = .armed r ∧ p = true ∧ s.key k = false) ∨ (p = false ∨ s.key k = true ∨ ∀ r, s.wait ≠ .armed r) := by
  by_cases harmed : ∃ r, s.wait = .armed r
  · obtain ⟨r, hr⟩ := harmed
    by_cases hp : p = true
    · by_cases hkey : s.key k = true
      · exact .inr (.inr (.inl hkey))
      · exact .inl ⟨r, hr, hp, Bool.eq_false_iff.mpr hkey⟩
    · exact .inr (.inl (Bool.eq_false_iff.mpr hp))
  · exact .inr (.inr (.inr (not_exists.mp harmed)))

/-- Settles O45: a press that captures is three writes, any other change of a key is one. -/
theorem pressCapturesOnlyWhileArmed : Obligations.PressCapturesOnlyWhileArmed := by
  unfold Obligations.PressCapturesOnlyWhileArmed
  refine fun k p s => ⟨_, transact_setKey k p s, ?_⟩
  have base : SameExcept [.registers, .keypad, .wait] s (s.setKey k p) :=
    (SameExcept.refl _ s).setKey (by simp) k p
  obtain ⟨r, harmed, rfl, hkey⟩ | hno := press_cases k p s
  · have hnum : (BitVec.ofNat 8 k.val).toNat = k.val := Nat.mod_eq_of_lt (k.isLt.trans (by decide))
    rw [pressOrRelease_captures harmed hkey]
    refine ⟨fun j => s.key_setKey k j true, fun r' harmed' _ _ => ?_, fun hno => ?_, ?_, rfl⟩
    · obtain rfl : r' = r := WaitState.armed.inj (harmed'.symm.trans harmed)
      refine ⟨rfl, ?_, fun r hr => State.reg_setReg_of_ne (s.setKey k true) _ hr⟩
      exact (congrArg BitVec.toNat ((State.reg_setReg (s.setKey k true) r' r' _).trans (if_pos rfl))).trans hnum
    · simp [hkey, harmed] at hno
    · exact ((base.setReg (by simp) r _).setWait (by simp) _).returningNothing
  · rw [pressOrRelease_of_no_capture hno]
    refine ⟨fun j => s.key_setKey k j p, fun r harmed hp hkey => ?_, fun _ => ⟨rfl, fun _ => rfl⟩, base.returningNothing, rfl⟩
    simp [harmed, hp, hkey] at hno

/-- Settles O46: set_key is refused from 16 on, and a step, which is the one other transaction that can answer in several
ways, always answers a next state. -/
theorem keyIndexAboveFifteenIsRefused : Obligations.KeyIndexAboveFifteenIsRefused := by
  unfold Obligations.KeyIndexAboveFifteenIsRefused
  refine ⟨fun k p s hk => dif_neg (not_lt.mpr hk), fun a s hsmall => ?_⟩
  cases a
  case step => exact step_answers s
  case setKey k p => exact ⟨_, transact_setKey ⟨k, hsmall k p rfl⟩ p s⟩
  all_goals exact ⟨_, rfl⟩

/-! ### Load, reset and the reads -/

theorem transact_load_of_le {bytes : List Byte} (h : bytes.length ≤ 3584) (s : State) :
    transact (.load bytes) s = .next ((s.writeBytes 0x200 bytes).returning .loadOk) :=
  congrArg _ (if_pos h)

theorem transact_load_of_lt {bytes : List Byte} (h : 3584 < bytes.length) (s : State) :
    transact (.load bytes) s = .next (s.returning .loadError) :=
  congrArg _ (if_neg (not_le.mpr h))

/-- Settles O47: a blob that fits is one block of bytes at 0x200, which does not wrap. -/
theorem loadCopiesTheBlobOrNothing : Obligations.LoadCopiesTheBlobOrNothing := by
  unfold Obligations.LoadCopiesTheBlobOrNothing
  refine fun bytes s hs => ⟨fun hfits => ?_, fun hlong => ?_⟩
  · refine ⟨_, transact_load_of_le hfits s, rfl, fun k hk => ?_, fun a ha => ?_, ?_⟩
    · exact State.memRead_writeBytes_inside hs (by omega) hk
    · exact State.memRead_writeBytes_outside hs fun k hk => by omega
    · exact ((SameExcept.refl _ s).writeBytes (by simp) _ _).returning _
  · exact ⟨_, transact_load_of_lt hlong s, rfl, (SameExcept.refl [] s).returning _⟩

/-- A byte outside the glyph region is kept by a reset (R213, decision D19). -/
theorem memRead_resetMachine_outside {s : State} (hs : s.MemoryCanonical) {a : Nat}
    (ha : a % 4096 < Params.fontBase ∨ Params.fontBase + 80 ≤ a % 4096) : (resetMachine s).memRead a = s.memRead a := by
  rw [State.memRead_congr (resetMachine_mem s)]
  refine State.memRead_writeBytes_outside hs fun k hk => ?_
  rw [Params.fontData_length] at hk
  simp only [Params.fontBase] at *
  omega

/-- Settles O49: the fields of the state after a reset. -/
theorem resetValuesAndWhatItKeeps : Obligations.ResetValuesAndWhatItKeeps := by
  unfold Obligations.ResetValuesAndWhatItKeeps
  intro s hs
  refine ⟨resetMachine s, transact_reset s, fun r => ?_, resetMachine_i s, resetMachine_pc s, ?_, fun k hk => ?_,
    resetMachine_dt s, resetMachine_st s, resetMachine_wait s, resetMachine_reply s, fun a => memRead_resetMachine_outside hs,
    ?_, ?_, resetMachine_randomIndex s⟩
  · simp [State.reg]
  · simp
  · simp
  · exact State.pixel_congr (resetMachine_display s)
  · exact State.key_congr (resetMachine_keys s)

/-- Settles O51: a read only returns. -/
theorem readsChangeNothing : Obligations.ReadsChangeNothing := by
  unfold Obligations.ReadsChangeNothing
  exact fun s => ⟨⟨_, s.display, rfl, rfl, fun _ _ => rfl, (SameExcept.refl [] s).returning _⟩,
    ⟨_, rfl, rfl, (SameExcept.refl [] s).returning _⟩⟩

/-! ### The constructed machine -/

theorem initialByte_font {k : Nat} (h : k < Params.fontData.length) :
    initialByte (Params.fontBase + k) = Params.fontData[k] := by
  have hk : k < Config.fontSize := h
  rw [initialByte, if_pos ⟨by omega, by omega⟩, Nat.add_sub_cancel_left, List.getD_eq_getElem _ _ h]

theorem initialByte_outside {a : Nat} (h : a < Params.fontBase ∨ Params.fontBase + 80 ≤ a) : initialByte a = 0 :=
  if_neg (by simp only [Config.fontSize]; omega)

/-- Nothing is listed after construction, so every address reads as its content then (R44). -/
theorem State.memRead_reset (a : Nat) : State.reset.memRead a = initialByte (a % 4096) := rfl

/-- A reset writes glyph bytes where they stand, and memory stays without cells (R215). -/
theorem resetMachine_reset : resetMachine State.reset = State.reset := by
  decide

/-- Settles O50: the fields as they are written down, memory by what an unlisted address reads as. -/
theorem constructedMachine : Obligations.ConstructedMachine := by
  unfold Obligations.ConstructedMachine
  refine ⟨fun r => ?_, rfl, rfl, rfl, fun k hk => ?_, rfl, rfl, fun x y => Display.pixel_blank (x, y), fun k => ?_, rfl,
    fun k hk => ?_, fun a ha => ?_, congrArg _ resetMachine_reset⟩
  · simp [State.reg, State.reset]
  · simp [State.reset]
  · simp [State.key, State.reset]
  · have hmod : (Params.fontBase + k) % 4096 = Params.fontBase + k :=
      Nat.mod_eq_of_lt (by simp only [Params.fontBase]; omega)
    rw [State.memRead_reset, hmod]
    exact initialByte_font hk
  · rw [State.memRead_reset]
    exact initialByte_outside ha

end Sys2Proof.Machine

/-! Proofs of the invariant statements O53, O54 and O55 and of the handshake O56: a step over FX0A in each wait state, then what
every other step and every transaction keeps (R164 to R170). -/

namespace Sys2Proof.Machine

/-! ### A step over FX0A -/

/-- Back by two after the advance, a wait stands at its own address (R92, R164). -/
theorem State.setPc_rewind_advancePc (s : State) : s.advancePc.setPc (s.advancePc.pc - 2) = s := by
  simp only [State.advancePc, State.setPc, BitVec.add_sub_cancel]

theorem step_ldVxK_of_idle {s : State} {x : Reg} (hw : decode s.fetchWord = .ok (.ldVxK x)) (h : s.wait = .idle) :
    step s = done (s.setWait (.armed x)) := by
  rw [step_of_decode hw, exec_ldVxK_of_idle (s := s.advancePc) x h, State.setPc_rewind_advancePc]

theorem step_ldVxK_of_armed {s : State} {x r : Reg} (hw : decode s.fetchWord = .ok (.ldVxK x)) (h : s.wait = .armed r) :
    step s = done s := by
  rw [step_of_decode hw, exec_ldVxK_of_armed (s := s.advancePc) x h, State.setPc_rewind_advancePc]

theorem step_ldVxK_of_captured {s : State} {x : Reg} {k : KeyIndex} (hw : decode s.fetchWord = .ok (.ldVxK x))
    (h : s.wait = .captured k) : step s = done (s.advancePc.setWait .idle) := by
  rw [step_of_decode hw, exec_ldVxK_of_captured (s := s.advancePc) x h]

/-! ### The wait half of the invariant -/

theorem State.WaitCoherent.of_idle {s : State} (h : s.wait = .idle) : s.WaitCoherent := by
  simp only [State.WaitCoherent, h]

theorem State.waitCoherent_iff_of_armed {s : State} {r : Reg} (h : s.wait = .armed r) :
    s.WaitCoherent ↔ decode s.fetchWord = .ok (.ldVxK r) := by
  simp only [State.WaitCoherent, h]

theorem State.waitCoherent_iff_of_captured {s : State} {k : KeyIndex} (h : s.wait = .captured k) :
    s.WaitCoherent ↔ ∃ r, decode s.fetchWord = .ok (.ldVxK r) ∧ s.reg r = BitVec.ofNat 8 k.val := by
  simp only [State.WaitCoherent, h]

/-- The wait half looks at the wait state, the fetched word and the registers. -/
theorem State.WaitCoherent.congr {s t : State} (h : s.WaitCoherent) (hwait : t.wait = s.wait)
    (hfetch : t.fetchWord = s.fetchWord) (hregs : t.v = s.v) : t.WaitCoherent := by
  simpa only [State.WaitCoherent, hwait, hfetch, State.reg_congr hregs] using h

/-- Where the word at pc is no FX0A, no wait is under way. -/
theorem State.WaitCoherent.idle_of_no_ldVxK {s : State} (h : s.WaitCoherent)
    (hw : ∀ r, decode s.fetchWord ≠ .ok (.ldVxK r)) : s.wait = .idle := by
  rcases hwait : s.wait with _ | r | k
  · rfl
  · exact absurd ((State.waitCoherent_iff_of_armed hwait).mp h) (hw r)
  · obtain ⟨r, hr, -⟩ := (State.waitCoherent_iff_of_captured hwait).mp h
    exact absurd hr (hw r)

/-- FX0A keeps the wait half: it arms for its own register, or waits on in place, or ends the wait (R164 to R166). -/
theorem waitCoherent_of_step_ldVxK {s t : State} {x : Reg} (hw : decode s.fetchWord = .ok (.ldVxK x)) (hs : s.WaitCoherent)
    (h : step s = .next t) : t.WaitCoherent := by
  rcases hwait : s.wait with _ | r | k
  · cases (step_ldVxK_of_idle hw hwait).symm.trans h
    exact (State.waitCoherent_iff_of_armed rfl).mpr hw
  · cases (step_ldVxK_of_armed hw hwait).symm.trans h
    exact hs.congr rfl rfl rfl
  · cases (step_ldVxK_of_captured hw hwait).symm.trans h
    exact State.WaitCoherent.of_idle rfl

/-- No other instruction writes the wait state (R38). -/
theorem wait_of_exec {i : Instr} {s t : State} (hi : ∀ x, i ≠ .ldVxK x) (h : exec i s = .next t) : t.wait = s.wait := by
  refine sameExcept_mayWrite_of_exec h .wait ?_
  cases i
  case ldVxK x => exact absurd rfl (hi x)
  all_goals simp [mayWrite]

/-- Every step keeps the wait half: while a wait is under way the word is FX0A, and otherwise nothing but FX0A begins one. -/
theorem waitCoherent_of_step {s t : State} (hs : s.WaitCoherent) (h : step s = .next t) : t.WaitCoherent := by
  by_cases hfx : ∃ x, decode s.fetchWord = .ok (.ldVxK x)
  · obtain ⟨x, hw⟩ := hfx
    exact waitCoherent_of_step_ldVxK hw hs h
  · have hidle : s.wait = .idle := hs.idle_of_no_ldVxK (not_exists.mp hfx)
    refine State.WaitCoherent.of_idle (Eq.trans ?_ hidle)
    obtain ⟨i, hw, e⟩ | ⟨_, -, e⟩ := step_cases s
    · exact wait_of_exec (s := s.advancePc) (fun x hx => hfx ⟨x, hx ▸ hw⟩) (e.symm.trans h)
    · cases e.symm.trans h
      rfl

/-! ### The memory half of the invariant -/

theorem eq_of_done {s t : State} (h : done s = .next t) : t = s.returning .continue :=
  (Host.Outcome.next.inj h).symm

/-- An instruction leaves memory as it is or writes a block of bytes, and only FX33 and FX55 do so (R56). -/
theorem mem_cases_of_exec {i : Instr} {s t : State} (h : exec i s = .next t) :
    t.mem = s.mem ∨ ∃ a bs, t.mem = (s.writeBytes a bs).mem := by
  cases i
  case ret =>
    obtain ⟨-, e⟩ | ⟨_, e⟩ := execRet_cases s <;> cases e.symm.trans h <;> exact .inl rfl
  case call nnn =>
    obtain ⟨-, e⟩ | ⟨_, e⟩ := execCall_cases nnn s <;> cases e.symm.trans h <;> exact .inl rfl
  case ldVxK x =>
    obtain ⟨-, e⟩ | ⟨_, -, e⟩ | ⟨_, -, e⟩ := execLdVxK_cases x s <;> cases e.symm.trans h <;> exact .inl rfl
  case seImm | sneImm | seReg | sneReg | skp | sknp =>
    cases h
    exact .inl (s.skipIf_mem _)
  case ldB | ldMemVx =>
    cases h
    exact .inr ⟨_, _, rfl⟩
  case ldVxMem x =>
    rw [eq_of_done ((exec_ldVxMem x s).symm.trans h), State.returning_mem, State.loadRegs_mem]
    exact .inl rfl
  all_goals
    cases h
    exact .inl rfl

theorem State.MemoryCanonical.congr {s t : State} (h : s.MemoryCanonical) (hmem : t.mem = s.mem) : t.MemoryCanonical := by
  rw [State.MemoryCanonical, hmem]
  exact h

theorem memoryCanonical_of_exec {i : Instr} {s t : State} (hs : s.MemoryCanonical) (h : exec i s = .next t) :
    t.MemoryCanonical := by
  obtain hmem | ⟨a, bs, hmem⟩ := mem_cases_of_exec h
  · exact State.MemoryCanonical.congr hs hmem
  · exact State.MemoryCanonical.congr (State.writeBytes_wf hs a bs) hmem

theorem memoryCanonical_of_step {s t : State} (hs : s.MemoryCanonical) (h : step s = .next t) : t.MemoryCanonical := by
  obtain ⟨_, -, e⟩ | ⟨_, -, e⟩ := step_cases s
  · exact memoryCanonical_of_exec (s := s.advancePc) hs (e.symm.trans h)
  · cases e.symm.trans h
    exact hs

/-- Settles O53: a step keeps each half of the invariant. -/
theorem stepKeepsTheInvariant : Obligations.StepKeepsTheInvariant := by
  unfold Obligations.StepKeepsTheInvariant
  exact fun s t ⟨hmem, hwait⟩ h => ⟨memoryCanonical_of_step hmem h, waitCoherent_of_step hwait h⟩

/-- Settles O54: nothing is listed and no wait is under way. -/
theorem resetMeetsTheInvariant : Obligations.ResetMeetsTheInvariant :=
  ⟨State.reset_mem_wf, State.WaitCoherent.of_idle rfl⟩

/-! ### The host's transactions -/

/-- A change of a key keeps the wait half: a capture puts the key in the register of the FX0A at pc (R167). -/
theorem waitCoherent_pressOrRelease {s : State} (hs : s.WaitCoherent) (k : KeyIndex) (p : Bool) :
    (pressOrRelease k p s).WaitCoherent := by
  obtain ⟨r, harmed, rfl, hkey⟩ | hno := press_cases k p s
  · rw [pressOrRelease_captures harmed hkey]
    refine (State.waitCoherent_iff_of_captured rfl).mpr ⟨r, (State.waitCoherent_iff_of_armed harmed).mp hs, ?_⟩
    exact (State.reg_setReg (s.setKey k true) r r _).trans (if_pos rfl)
  · rw [pressOrRelease_of_no_capture hno]
    exact hs.congr rfl rfl rfl

theorem pressOrRelease_mem (k : KeyIndex) (p : Bool) (s : State) : (pressOrRelease k p s).mem = s.mem := by
  obtain ⟨r, harmed, rfl, hkey⟩ | hno := press_cases k p s
  · rw [pressOrRelease_captures harmed hkey]
    rfl
  · rw [pressOrRelease_of_no_capture hno]
    rfl

/-- Settles O55: a load keeps the memory half, every other transaction both. -/
theorem transactionsKeepTheInvariant : Obligations.TransactionsKeepTheInvariant := by
  unfold Obligations.TransactionsKeepTheInvariant
  intro a s t hs h
  obtain ⟨hmem, hwait⟩ := hs
  cases a
  case step =>
    have hinv := stepKeepsTheInvariant s t ⟨hmem, hwait⟩ h
    exact ⟨hinv.1, fun _ => hinv⟩
  case load bytes =>
    refine ⟨?_, fun hno => absurd rfl (hno bytes)⟩
    obtain hfits | hlong := le_or_gt bytes.length 3584
    · cases (transact_load_of_le hfits s).symm.trans h
      exact State.writeBytes_wf hmem _ bytes
    · cases (transact_load_of_lt hlong s).symm.trans h
      exact hmem
  case reset =>
    cases h
    have hmem' : (resetMachine s).MemoryCanonical :=
      State.MemoryCanonical.congr (State.writeBytes_wf hmem _ _) (resetMachine_mem s)
    exact ⟨hmem', fun _ => ⟨hmem', State.WaitCoherent.of_idle (resetMachine_wait s)⟩⟩
  case setKey k p =>
    obtain hk | hk := lt_or_ge k 16
    · cases (transact_setKey ⟨k, hk⟩ p s).symm.trans h
      have hmem' : (pressOrRelease ⟨k, hk⟩ p s).MemoryCanonical :=
        State.MemoryCanonical.congr hmem (pressOrRelease_mem ⟨k, hk⟩ p s)
      exact ⟨hmem', fun _ => ⟨hmem', waitCoherent_pressOrRelease hwait ⟨k, hk⟩ p⟩⟩
    · cases (keyIndexAboveFifteenIsRefused.1 k p s hk).symm.trans h
  case tickTimers | readPixels | readSoundTimer =>
    cases h
    exact ⟨hmem, fun _ => ⟨hmem, hwait.congr rfl rfl rfl⟩⟩

/-! ### The handshake -/

/-- States with the same pc and the same bytes fetch the same word (R91). -/
theorem State.fetchWord_of_sameExcept {ps : List Part} {s t : State} (h : SameExcept ps s t) (hpc : .programCounter ∉ ps)
    (hmem : .memory ∉ ps) : t.fetchWord = s.fetchWord := by
  have samePc : t.pc = s.pc := h .programCounter hpc
  have sameMem : ∀ a, t.memRead a = s.memRead a := h .memory hmem
  simp only [State.fetchWord, samePc, sameMem]

/-- Any number of steps leave an armed wait where it is (R165). -/
theorem steps_of_armed {s : State} {x : Reg} (hw : decode s.fetchWord = .ok (.ldVxK x)) (h : s.wait = .armed x) (n : Nat) :
    ∃ t, transactAll (List.replicate n .step) s = .next t ∧ t.wait = .armed x ∧ SameExcept [] s t := by
  induction n generalizing s with
  | zero => exact ⟨s, rfl, h, SameExcept.refl _ s⟩
  | succ n ih =>
    obtain ⟨t, hall, hwait, frame⟩ := ih (s := s.returning .continue) hw h
    exact ⟨t, (transactAll_cons (a := .step) (step_ldVxK_of_armed hw h) _).trans hall, hwait,
      ((SameExcept.refl _ s).returning _).trans frame⟩

/-- Settles O56: the first step arms and the others wait on, the press captures, and the step over the captured wait ends it. -/
theorem keyWaitHandshakeCompletes : Obligations.KeyWaitHandshakeCompletes := by
  unfold Obligations.KeyWaitHandshakeCompletes
  intro s x k n hw hidle hkey
  obtain ⟨t, hall, harmed, frame⟩ := steps_of_armed (s := (s.setWait (.armed x)).returning .continue) hw rfl n
  have frame' : SameExcept [.wait] s t :=
    (((SameExcept.refl [.wait] s).setWait (by simp) _).returning _).trans (frame.mono (by simp))
  have hkey' : t.key k = false := (frame' .keypad (by simp) k).trans hkey
  have hw' : decode t.fetchWord = .ok (.ldVxK x) :=
    (congrArg decode (State.fetchWord_of_sameExcept frame' (by simp) (by simp))).trans hw
  have hpc : t.pc = s.pc := frame' .programCounter (by simp)
  have hpress := (transact_setKey k true t).trans (congrArg _ (pressOrRelease_captures harmed hkey'))
  have hreg : (((t.setKey k true).setReg x (BitVec.ofNat 8 k.val)).reg x).toNat = k.val := by
    rw [State.reg_setReg, if_pos rfl]
    exact Nat.mod_eq_of_lt (k.isLt.trans (by decide))
  refine ⟨t, _, _, (transactAll_cons (a := .step) (step_ldVxK_of_idle hw hidle) _).trans hall, harmed, frame', hpress, rfl, hpc, hreg,
    step_ldVxK_of_captured hw' rfl, rfl, ?_, hreg, rfl⟩
  exact congrArg (· + 2) hpc

end Sys2Proof.Machine

/-! Proof of the noninterference statement O57: no meaning reads ST (R33). -/

namespace Sys2Proof.Machine

theorem State.skipIf_setSt (s : State) (c : Bool) (b : Byte) :
    State.skipIf c { s with st := b } = { s.skipIf c with st := b } := by
  cases c <;> rfl

theorem State.writeBytes_setSt (s : State) (a : Nat) (bs : List Byte) (b : Byte) :
    State.writeBytes { s with st := b } a bs = { s.writeBytes a bs with st := b } := by
  induction bs generalizing s a with
  | nil => rfl
  | cons c rest ih => exact ih (s.memWrite a c) (a + 1)

/-- A meaning runs the same whatever ST is, and hands ST on or, as FX18, overwrites it (R33, R162). -/
theorem exec_setSt {i : Instr} {s t : State} (b : Byte) (h : exec i s = .next t) :
    ∃ b', exec i { s with st := b } = .next { t with st := b' } := by
  cases i
  case ret =>
    obtain hempty | hpos := Nat.eq_zero_or_pos s.sp.val
    · cases (exec_ret_of_empty hempty).symm.trans h
      exact ⟨b, exec_ret_of_empty (s := { s with st := b }) hempty⟩
    · cases (exec_ret_of_sp_pos hpos).symm.trans h
      exact ⟨b, exec_ret_of_sp_pos (s := { s with st := b }) hpos⟩
  case call nnn =>
    obtain ⟨hfull, -⟩ | ⟨hlt, -⟩ := execCall_cases nnn s
    · cases (exec_call_of_full nnn hfull).symm.trans h
      exact ⟨b, exec_call_of_full (s := { s with st := b }) nnn hfull⟩
    · cases (exec_call_of_sp_lt nnn hlt).symm.trans h
      exact ⟨b, exec_call_of_sp_lt (s := { s with st := b }) nnn hlt⟩
  case ldVxK x =>
    obtain ⟨hwait, -⟩ | ⟨r, hwait, -⟩ | ⟨k, hwait, -⟩ := execLdVxK_cases x s
    · cases (exec_ldVxK_of_idle x hwait).symm.trans h
      exact ⟨b, exec_ldVxK_of_idle (s := { s with st := b }) x hwait⟩
    · cases (exec_ldVxK_of_armed x hwait).symm.trans h
      exact ⟨b, exec_ldVxK_of_armed (s := { s with st := b }) x hwait⟩
    · cases (exec_ldVxK_of_captured x hwait).symm.trans h
      exact ⟨b, exec_ldVxK_of_captured (s := { s with st := b }) x hwait⟩
  case seImm | sneImm | seReg | sneReg | skp | sknp =>
    cases h
    exact ⟨b, congrArg done (s.skipIf_setSt _ b)⟩
  case ldB | ldMemVx =>
    cases h
    exact ⟨b, congrArg done (s.writeBytes_setSt _ _ b)⟩
  case ldVxMem x =>
    rw [eq_of_done ((exec_ldVxMem x s).symm.trans h)]
    exact ⟨b, exec_ldVxMem x { s with st := b }⟩
  case ldSTVx x =>
    cases h
    exact ⟨s.reg x, rfl⟩
  all_goals
    cases h
    exact ⟨b, rfl⟩

/-- Settles O57: the same word is fetched, and neither a meaning nor a failure reads ST. -/
theorem soundTimerIsNeverRead : Obligations.SoundTimerIsNeverRead := by
  unfold Obligations.SoundTimerIsNeverRead
  intro s t b h
  obtain ⟨i, hw, e⟩ | ⟨_, hw, e⟩ := step_cases s
  · obtain ⟨b', h'⟩ := exec_setSt b (e.symm.trans h)
    exact ⟨_, (step_of_decode (s := { s with st := b }) hw).trans h', rfl, (SameExcept.refl _ t).setSt (by simp) b'⟩
  · cases e.symm.trans h
    exact ⟨_, step_of_reject (s := { s with st := b }) hw, rfl, (SameExcept.refl _ _).setSt (by simp) b⟩

end Sys2Proof.Machine
